-- ==== Sys2Proof/Word.lean ====
section
/-! DEFINITION. The widths of the port and of byte sequences (spec R7, R8): a byte, a word of the
32-bit port, an 8-bit byte offset on the port, and a counter. All values are unsigned (R8). -/

namespace Sys2Proof

/-- `u8` (R8), one byte of a key, a digest or a code string. -/
abbrev Byte := BitVec 8

/-- A word is 32 bits (R8): the port's data width (R7) and SHA-1's word (R90). -/
abbrev Word := BitVec 32

/-- A byte offset on the port, `0x00` to `0xFF` (R7, R49). -/
abbrev Offset := BitVec 8

/-- `u64` (R8), the counter operand (R21). -/
abbrev Counter := BitVec 64

end Sys2Proof
end

