-- ==== Sys2Proof/Config.lean ====
section
/-! DEFINITION. What an implementation fixes (spec R7: the one parameter `KEY_MAX`) and the one free
value of the model (the formatter outside the domain of R121; log entry 5). -/

namespace Sys2Proof.Config

/-- The default of the parameter `KEY_MAX` (R7): "128 by default". The parameter itself is the field
`keyMax` of the state, so every statement ranges over every value of it (log entry 1). -/
def defaultKeyMax : Nat := 128

/-- The largest value of the parameter, `1 <= KEY_MAX <= 65535` (R7). -/
def keyMaxLimit : Nat := 65535

/-- FREE VALUE (log entry 5). R121 defines `Fmt(c, n)` only for `1 <= n <= 8` and `c < 10^n`; outside
it the spec states no bytes. No reachable state asks for it (R40), and nothing can be proved of it. -/
opaque fmtOutside : Nat → Nat → Vector Byte 8

end Sys2Proof.Config
end

