-- ==== Sys2Proof/Syntax.lean ====
section
/-! DEFINITION. The syntax of the core, whole: the eight commands (spec R76), the twenty registers of
the port (R16), the three kinds of port event (R46, R81), and the assembler notation programs are
written in (R82, R83). Operands of the notation are plain numbers and lists; `WellFormed.lean` checks
them. -/

namespace Sys2Proof

/-- The commands, one constructor per row of `spec/opcode_table.json` (R76). They carry no operand
fields: every operand is taken from the operand registers (R75). -/
inductive Instr where
  | nop
  | clr
  | keyclr
  | hmac
  | trunc
  | modr
  | fmt
  | hotp
deriving DecidableEq, Repr

/-- The twenty registers of the map (R16), in the order of their offsets. -/
inductive Reg where
  | cmd
  | status
  | err
  | einfo
  | keyPush
  | klen
  | ctrHi
  | ctrLo
  | digits
  | digest0
  | digest1
  | digest2
  | digest3
  | digest4
  | offset
  | sel
  | code
  | out0
  | out1
  | outLen
deriving DecidableEq, Repr

/-- The access classes of the register map (R16): readable and writable, read-only, write-only. -/
inductive Access where
  | rw
  | ro
  | wo
deriving DecidableEq, Repr

/-- One port event (R46, R81): a word write, a word read, or the hardware reset. -/
inductive Event where
  | write (addr : Offset) (data : Word)
  | read (addr : Offset)
  | reset
deriving DecidableEq, Repr

/-- A statement of the assembler notation: R82's four statements, then R83's pseudo-instructions.
`key` holds the values of its hex digits, leftmost first; `keys` its characters; `short` is a bare
mnemonic. -/
inductive Stmt where
  | wr (r : Reg) (value : Nat)
  | rd (r : Reg)
  | cmd (i : Instr)
  | reset
  | keyb (b : Nat)
  | key (h : List Nat)
  | keys (text : List Char)
  | ctr (v : Nat)
  | digits (n : Nat)
  | short (i : Instr)
deriving DecidableEq, Repr

end Sys2Proof
end

