-- ==== Sys2Proof/WellFormed.lean ====
section
/-! DEFINITION. Which terms of the syntax are well formed. A command has no operand (spec R75), so
every `Instr` is well formed; a port event's offset and data have their widths by type (R46), so every
`Event` is. The checks are on the assembler notation (R82, R83), whose operands are plain numbers. -/

namespace Sys2Proof

/-- Every command is well formed: it carries no operand that a check could refuse (R75). -/
def Instr.wf : Instr → Bool
  | .nop => true
  | .clr => true
  | .keyclr => true
  | .hmac => true
  | .trunc => true
  | .modr => true
  | .fmt => true
  | .hotp => true

/-- A printable ASCII character, code `0x20` to `0x7E` (R83's `keys`; the range is PRESUMED, log
entry 12). -/
def printable (c : Char) : Bool := 0x20 ≤ c.toNat && c.toNat ≤ 0x7E

/-- The operand checks of the notation (R82, R83): a written value has 8 hex digits; `keyb` takes one
byte; `key` takes `2n` hex digits, `n >= 1`; `keys` takes printable characters; `ctr` takes a 64-bit
value; `digits` writes a word. -/
def Stmt.wf : Stmt → Bool
  | .wr _ value => value < 2 ^ 32
  | .rd _ => true
  | .cmd i => i.wf
  | .reset => true
  | .keyb b => b ≤ 255
  | .key h => h.length % 2 == 0 && 1 ≤ h.length && h.all (· < 16)
  | .keys text => text.all printable
  | .ctr v => v < 2 ^ 64
  | .digits n => n < 2 ^ 32
  | .short i => i.wf

end Sys2Proof
end

