-- ==== Sys2Proof/Decode.lean ====
section
/-! DEFINITION. Command decoding (spec R73 to R80), total on any word and refusing by name, and after
it the encoder. The port presents whole words (R55), so a command is decoded from a word. -/

namespace Sys2Proof

/-- Why a word names no command (R78). -/
inductive Undefined where
  /-- `ZERO`, bits `[31:8]`, is not 0. -/
  | zeroField
  /-- `ZERO` is 0 and `OPC`, bits `[7:0]`, is none of the eight opcodes. -/
  | opcode
deriving DecidableEq, Repr

/-- Format C, bits `[31:8]`: the field ZERO (R74). -/
def zeroField (w : Word) : BitVec 24 := w.extractLsb' 8 24

/-- Format C, bits `[7:0]`: the field OPC (R74). -/
def opcField (w : Word) : Byte := w.extractLsb' 0 8

/-- The opcode map (R76): OPC and command. -/
def opcodeMap : List (Byte × Instr) :=
  [(0x00#8, .nop), (0x01#8, .clr), (0x02#8, .keyclr), (0x10#8, .hmac), (0x11#8, .trunc),
   (0x12#8, .modr), (0x13#8, .fmt), (0x1F#8, .hotp)]

/-- Decoding compares the whole word (R77); every other word is undefined (R78). -/
def decode (w : Word) : Except Undefined Instr :=
  if zeroField w ≠ 0#24 then .error .zeroField
  else
    match opcodeMap.find? (fun row => row.1 == opcField w) with
    | some row => .ok row.2
    | none => .error .opcode

/-- The host's reading of one row of `spec/opcode_table.json`: the word's low `nbits` bits of `w`, the
rest 0. A value that needs more than 32 bits is no command word (R73). -/
def decodeTableWord (nbits w : Nat) : Option Instr :=
  if w % 2 ^ nbits < 2 ^ 32 then (decode (BitVec.ofNat 32 (w % 2 ^ nbits))).toOption else none

/-- The command words, the "word" column of R76. -/
def encode : Instr → Word
  | .nop => 0x00000000#32
  | .clr => 0x00000001#32
  | .keyclr => 0x00000002#32
  | .hmac => 0x00000010#32
  | .trunc => 0x00000011#32
  | .modr => 0x00000012#32
  | .fmt => 0x00000013#32
  | .hotp => 0x0000001F#32

end Sys2Proof
end

