-- ==== Sys2Proof/Machine/State.lean ====
section
/-! DEFINITION. The state of the core as plain data: every field of spec R13, the parameter `KEY_MAX`
(R7), and the model's own view of the port (the events the host has still to issue, and the word the
last read returned). Then the stages (R34), the fault codes' names (R130) and the reset state (R37). -/

namespace Sys2Proof.Machine

/-- Reasons for a step to stop with a fault: NONE. The spec's faults are changes of the core's state
(R129, R133), so they are next states here; R163 says that every transaction completes. -/
inductive Fault where
deriving DecidableEq, Repr

/-- Reasons for a step to be refused. -/
inductive Refusal where
  /-- Raised only by an arm of `exec` whose instruction has no meaning yet (there is none left). Safe:
  nothing can be proved of a step that is refused. -/
  | notModelled (mnemonic : String)
deriving DecidableEq, Repr

/-- The four result stages in pipeline order (R34). -/
inductive Stage where
  | digest
  | selected
  | code
  | out
deriving DecidableEq, Repr

/-- The seven faults by name (R130); their codes are `FaultCode.code`. -/
inductive FaultCode where
  | illcmd
  | bus
  | keyovf
  | keyempty
  | digits
  | seq
  | rdinv
deriving DecidableEq, Repr

/-- The state. `keybuf` to `einfo` are the fields of R13, with R13's types. `keyMax` is the parameter
`KEY_MAX` (R7), which no step changes (log entry 1). `pending` and `rdata` are the MODEL'S OWN: the port
events the host issues, in order (R46, R48), and the word the last transaction returned, if it was a
read (log entry 2). -/
@[ext]
structure State where
  /-- the parameter `KEY_MAX` (R7) -/
  keyMax : Nat
  /-- the raw key bytes, `KEY_MAX` of them (R18) -/
  keybuf : List Byte
  /-- number of key bytes loaded (R19) -/
  klen : Nat
  /-- the counter operand (R21) -/
  ctr : Counter
  /-- the digit-count operand (R22) -/
  digits : BitVec 4
  /-- the HMAC-SHA-1 result (R23) -/
  digest : Vector Byte 20
  /-- the dynamic-truncation offset (R24) -/
  offset : BitVec 4
  /-- the selected and masked value (R25) -/
  sel : BitVec 31
  /-- `sel mod m` (R26) -/
  code : BitVec 27
  /-- the formatted string, character 0 first (R27) -/
  out : Vector Byte 8
  /-- number of characters in `out` (R28) -/
  outlen : BitVec 4
  /-- valid flag of the digest stage (R29) -/
  dv : Bool
  /-- valid flag of the selected stage (R29) -/
  sv : Bool
  /-- valid flag of the code stage (R29) -/
  cv : Bool
  /-- valid flag of the out stage (R29) -/
  ov : Bool
  /-- the fault code, 0 when there is no fault (R32) -/
  ecode : BitVec 4
  /-- the fault information (R33) -/
  einfo : Word
  /-- MODEL'S OWN: the port events not yet performed, the next one first -/
  pending : List Event
  /-- MODEL'S OWN: the word the last transaction returned, if it was a read -/
  rdata : Option Word
deriving DecidableEq, Repr

/-- The reset state of a core whose parameter `KEY_MAX` is `k`: every field at its value of R37, no
event pending, nothing returned. -/
def State.resetTo (k : Nat) : State where
  keyMax := k
  keybuf := List.replicate k 0x00#8
  klen := 0
  ctr := 0#64
  digits := 0#4
  digest := Vector.replicate 20 0x00#8
  offset := 0#4
  sel := 0#31
  code := 0#27
  out := Vector.replicate 8 0x00#8
  outlen := 0#4
  dv := false
  sv := false
  cv := false
  ov := false
  ecode := 0#4
  einfo := 0#32
  pending := []
  rdata := none

/-- The machine right after reset (R37), with the parameter at its default (R7). -/
def State.reset : State := State.resetTo Config.defaultKeyMax

end Sys2Proof.Machine
end

