-- ==== Sys2Proof/Machine/Flags.lean ====
section
/-! DEFINITION. The valid flags and their stages: what clears a stage (spec R35), which flag says a
stage is valid (R29), the frozen condition (R136), and the STATUS word (R31). The core has no other
flags (R29). -/

namespace Sys2Proof.Machine

/-- Frozen: `ecode` is not 0 (R136). -/
def State.frozen (s : State) : Bool := s.ecode != 0#4

/-- The number of a stage (R34). -/
def Stage.number : Stage → Nat
  | .digest => 0
  | .selected => 1
  | .code => 2
  | .out => 3

/-- The valid flag of a stage (R29). -/
def State.valid (s : State) : Stage → Bool
  | .digest => s.dv
  | .selected => s.sv
  | .code => s.cv
  | .out => s.ov

/-- Line `s <= 0` of R35. -/
def clearDigest (s : State) : State := { s with digest := Vector.replicate 20 0x00#8, dv := false }

/-- Line `s <= 1` of R35. -/
def clearSelected (s : State) : State := { s with offset := 0#4, sel := 0#31, sv := false }

/-- Line `s <= 2` of R35. -/
def clearCode (s : State) : State := { s with code := 0#27, cv := false }

/-- Line `s <= 3` of R35. -/
def clearOut (s : State) : State :=
  { s with out := Vector.replicate 8 0x00#8, outlen := 0#4, ov := false }

/-- `invalidate(stage)` (R35): clears the stage and every later stage. -/
def invalidate (st : Stage) (s : State) : State :=
  match st with
  | .digest => clearOut (clearCode (clearSelected (clearDigest s)))
  | .selected => clearOut (clearCode (clearSelected s))
  | .code => clearOut (clearCode s)
  | .out => clearOut s

/-- The STATUS word (R31): bit 0 DV, bit 1 SV, bit 2 CV, bit 3 OV, bit 4 FAULT, the rest 0. -/
def statusWord (s : State) : Word :=
  0#27 ++ BitVec.ofBool s.frozen ++ BitVec.ofBool s.ov ++ BitVec.ofBool s.cv ++
    BitVec.ofBool s.sv ++ BitVec.ofBool s.dv

end Sys2Proof.Machine
end

