-- ==== Sys2Proof/Machine/Bits.lean ====
section
/-! DEFINITION. Bytes and words: the notation of spec R8 to R10 (`ROTL`, `BE32`, `BE8`, `BYTES32`).
Every multi-byte quantity is big-endian (R52, R53). -/

namespace Sys2Proof.Machine

/-- `ROTL(n, w)` (R10), for `0 < n < 32`. -/
def rotl (n : Nat) (w : Word) : Word := (w <<< n) ||| (w >>> (32 - n))

/-- `BE32` of four bytes (R9): the first byte is the most significant. -/
def be32 (b0 b1 b2 b3 : Byte) : Word := b0 ++ b1 ++ b2 ++ b3

/-- Byte `i` of `BYTES32(w)`, that is `w[31-8i : 24-8i]` (R9), for `i` = 0 to 3. -/
def wordByte (w : Word) (i : Nat) : Byte := w.extractLsb' (24 - 8 * i) 8

/-- `BYTES32(w)` (R9). -/
def bytes32 (w : Word) : List Byte := (List.range 4).map (wordByte w)

/-- `BE8(c)` (R9): byte `i` is `c[63-8i : 56-8i]`. -/
def be8 (c : Counter) : List Byte := (List.range 8).map fun i => c.extractLsb' (56 - 8 * i) 8

end Sys2Proof.Machine
end

