-- ==== Sys2Proof/Machine/Operands.lean ====
section
/-! DEFINITION. The operands of the commands, all implicit (spec R75): the key, the message, the digit
count's validity. The command words have no operand forms. -/

namespace Sys2Proof.Machine

/-- The key `K = keybuf[0..klen]` (R18, R89). -/
def State.key (s : State) : List Byte := s.keybuf.take s.klen

/-- The message `text = BE8(ctr)`, always 8 bytes (R89). -/
def State.text (s : State) : List Byte := be8 s.ctr

/-- The digit count is valid, `1 <= digits <= 8` (R22, R118). -/
def State.digitsOk (s : State) : Bool := 1 ≤ s.digits.toNat && s.digits.toNat ≤ 8

end Sys2Proof.Machine
end

