-- ==== Sys2Proof/Machine/RegMap.lean ====
section
/-! DEFINITION. The register map (spec R16): offset, access class and stage of each register, and
which register an offset names. -/

namespace Sys2Proof.Machine

/-- The registers, in the order of R16. -/
def regList : List Reg :=
  [.cmd, .status, .err, .einfo, .keyPush, .klen, .ctrHi, .ctrLo, .digits, .digest0, .digest1,
   .digest2, .digest3, .digest4, .offset, .sel, .code, .out0, .out1, .outLen]

/-- The "offset" column of R16. -/
def regOffset : Reg → Offset
  | .cmd => 0x00#8
  | .status => 0x04#8
  | .err => 0x08#8
  | .einfo => 0x0C#8
  | .keyPush => 0x10#8
  | .klen => 0x14#8
  | .ctrHi => 0x18#8
  | .ctrLo => 0x1C#8
  | .digits => 0x20#8
  | .digest0 => 0x24#8
  | .digest1 => 0x28#8
  | .digest2 => 0x2C#8
  | .digest3 => 0x30#8
  | .digest4 => 0x34#8
  | .offset => 0x38#8
  | .sel => 0x3C#8
  | .code => 0x40#8
  | .out0 => 0x44#8
  | .out1 => 0x48#8
  | .outLen => 0x4C#8

/-- The "access" column of R16. -/
def regAccess : Reg → Access
  | .cmd => .wo
  | .status => .ro
  | .err => .ro
  | .einfo => .ro
  | .keyPush => .wo
  | .klen => .ro
  | .ctrHi => .rw
  | .ctrLo => .rw
  | .digits => .rw
  | .digest0 => .ro
  | .digest1 => .ro
  | .digest2 => .ro
  | .digest3 => .ro
  | .digest4 => .ro
  | .offset => .ro
  | .sel => .ro
  | .code => .ro
  | .out0 => .ro
  | .out1 => .ro
  | .outLen => .ro

/-- The stage a result register belongs to (R68); none for a register that is not a result. -/
def regStage : Reg → Option Stage
  | .cmd => none
  | .status => none
  | .err => none
  | .einfo => none
  | .keyPush => none
  | .klen => none
  | .ctrHi => none
  | .ctrLo => none
  | .digits => none
  | .digest0 => some .digest
  | .digest1 => some .digest
  | .digest2 => some .digest
  | .digest3 => some .digest
  | .digest4 => some .digest
  | .offset => some .selected
  | .sel => some .selected
  | .code => some .code
  | .out0 => some .out
  | .out1 => some .out
  | .outLen => some .out

/-- The register an offset names, if any: every offset names at most one register and every register
has one offset (R15); a misaligned offset and an offset from `0x50` on name none (R49, R56). -/
def regAt (a : Offset) : Option Reg := regList.find? fun r => regOffset r == a

/-- Misaligned: `addr[1:0] != 0` (R56). -/
def misaligned (a : Offset) : Bool := a.extractLsb' 0 2 != 0#2

/-- Unmapped: `addr >= 0x50` (R49, R58). -/
def unmapped (a : Offset) : Bool := 0x50#8 ≤ a

end Sys2Proof.Machine
end

