-- ==== Sys2Proof/Machine/Ops.lean ====
section
/-! DEFINITION. The named operations the meanings and the port share: fault entry and the return from
it (spec R133, R137), the value each register shows (R16, R19 to R33), and the operand writes (R63 to
R66). -/

namespace Sys2Proof.Machine

/-- The fault codes (R130). -/
def FaultCode.code : FaultCode → BitVec 4
  | .illcmd => 1#4
  | .bus => 2#4
  | .keyovf => 3#4
  | .keyempty => 4#4
  | .digits => 5#4
  | .seq => 6#4
  | .rdinv => 7#4

/-- Fault entry (R133): the code and the information are recorded, all stages are cleared; the key, the
counter and the digit count are kept. The core is then frozen (R136); it saves no pc and goes to no
handler, since it executes no program (R17, R129). -/
def enterFault (f : FaultCode) (info : Word) (s : State) : State :=
  invalidate .digest { s with ecode := f.code, einfo := info }

/-- `raise F(info)` (R11, R133): fault entry, and nothing else, is the raising step's effect. -/
def raise (f : FaultCode) (info : Word) (s : State) : Host.Outcome State Fault Refusal :=
  .next (enterFault f info s)

/-- Every field of R13 at its reset value (R37). The one function behind the hardware reset (R149) and
CLR (R87), as R151 allows, and the only return from a fault (R137): nothing is restored. The parameter
and the port's own fields are not part of R13 and are kept. -/
def resetFields (s : State) : State :=
  { State.resetTo s.keyMax with pending := s.pending, rdata := s.rdata }

/-- DIGESTn (R23): `BE32(digest[4n..4n+4])`, `n` = 0 to 4. -/
def digestWord (s : State) (n : Fin 5) : Word :=
  be32 s.digest[4 * n.val] s.digest[4 * n.val + 1] s.digest[4 * n.val + 2] s.digest[4 * n.val + 3]

/-- OUTn (R27): `BE32(out[4n..4n+4])`, `n` = 0 or 1. -/
def outWord (s : State) (n : Fin 2) : Word :=
  be32 s.out[4 * n.val] s.out[4 * n.val + 1] s.out[4 * n.val + 2] s.out[4 * n.val + 3]

/-- The value a register shows (the "view of" column of R16); none for the write-only registers, which
are not stored (R20, R30). Reserved bits read 0. -/
def regView (r : Reg) (s : State) : Option Word :=
  match r with
  | .cmd => none
  | .status => some (statusWord s)
  | .err => some (s.ecode.setWidth 32)
  | .einfo => some s.einfo
  | .keyPush => none
  | .klen => some (BitVec.ofNat 32 s.klen)
  | .ctrHi => some (s.ctr.extractLsb' 32 32)
  | .ctrLo => some (s.ctr.extractLsb' 0 32)
  | .digits => some (s.digits.setWidth 32)
  | .digest0 => some (digestWord s 0)
  | .digest1 => some (digestWord s 1)
  | .digest2 => some (digestWord s 2)
  | .digest3 => some (digestWord s 3)
  | .digest4 => some (digestWord s 4)
  | .offset => some (s.offset.setWidth 32)
  | .sel => some (s.sel.setWidth 32)
  | .code => some (s.code.setWidth 32)
  | .out0 => some (outWord s 0)
  | .out1 => some (outWord s 1)
  | .outLen => some (s.outlen.setWidth 32)

/-- A write of `data` to KEY_PUSH (R63): appends the byte `data[7:0]`, or raises KEYOVF, whose
information never contains `data`. -/
def pushKey (data : Word) (s : State) : Host.Outcome State Fault Refusal :=
  if s.klen = s.keyMax then raise .keyovf 0x00000110#32 s
  else
    .next (invalidate .digest
      { s with keybuf := s.keybuf.set s.klen (data.extractLsb' 0 8), klen := s.klen + 1 })

/-- A write of `data` to CTR_HI (R64). -/
def writeCtrHi (data : Word) (s : State) : State :=
  invalidate .digest { s with ctr := data ++ s.ctr.extractLsb' 0 32 }

/-- A write of `data` to CTR_LO (R65). -/
def writeCtrLo (data : Word) (s : State) : State :=
  invalidate .digest { s with ctr := s.ctr.extractLsb' 32 32 ++ data }

/-- A write of `data` to DIGITS (R66): every 4-bit value is stored, valid or not. -/
def writeDigits (data : Word) (s : State) : State :=
  invalidate .code { s with digits := data.extractLsb' 0 4 }

end Sys2Proof.Machine
end

