-- ==== Sys2Proof/Machine/Control.lean ====
section
/-! DEFINITION. The housekeeping commands NOP, CLR, KEYCLR (spec R86 to R88). -/

namespace Sys2Proof.Machine

/-- NOP (R86): no state field changes. -/
def execNop (s : State) : Host.Outcome State Fault Refusal := .next s

/-- CLR (R87): every field at its reset value; the state after it is the state after a hardware reset.
The only command obeyed while frozen (R60), and so the return from a fault (R137). -/
def execClr (s : State) : Host.Outcome State Fault Refusal := .next (resetFields s)

/-- KEYCLR (R88): the key buffer is zeroised, its length is 0, all stages are cleared. -/
def execKeyclr (s : State) : Host.Outcome State Fault Refusal :=
  .next (invalidate .digest { s with keybuf := List.replicate s.keyMax 0x00#8, klen := 0 })

end Sys2Proof.Machine
end

