-- ==== Sys2Proof/Machine/Format.lean ====
section
/-! DEFINITION. The zero-pad formatter and FMT (spec R119 to R122). -/

namespace Sys2Proof.Machine

/-- The decimal digit at position `i` of `c` written with `n` digits (R119). -/
def decDigit (c n i : Nat) : Nat := c / 10 ^ (n - 1 - i) % 10

/-- The character code of a digit value (R120). -/
def digitChar (v : Nat) : Byte := 0x30#8 + BitVec.ofNat 8 v

/-- `Fmt(c, n)` (R121), which the spec defines for `1 <= n <= 8` and `c < 10^n`; a free value outside
that domain, which no reachable state leaves (R40; log entry 5). -/
def fmt (c n : Nat) : Vector Byte 8 :=
  if 1 ≤ n ∧ n ≤ 8 ∧ c < 10 ^ n then
    Vector.ofFn fun i => if i.val < n then digitChar (decDigit c n i.val) else 0x00#8
  else Config.fmtOutside c n

/-- FMT (R122): SEQ when there is no code; otherwise the string of the code and its length. No check of
the digit count is needed: a valid code implies a valid digit count (R40). -/
def execFmt (s : State) : Host.Outcome State Fault Refusal :=
  if s.cv = false then raise .seq 0x00000013#32 s
  else .next { s with out := fmt s.code.toNat s.digits.toNat, outlen := s.digits, ov := true }

end Sys2Proof.Machine
end

