-- ==== Sys2Proof/Machine/Sha1.lean ====
section
/-! DEFINITION. SHA-1 as spec R90 to R98 give it: padding, parsing, schedule, rounds, compression,
chaining, output. The working variables live only inside one step (R36). -/

namespace Sys2Proof.Machine

/-- A chaining value `(H0..H4)` or the five round variables `(a..e)` (R93, R96). -/
structure Chain where
  a : Word
  b : Word
  c : Word
  d : Word
  e : Word
deriving DecidableEq, Repr

/-- The initial hash value `H^(0)` (R93). -/
def sha1Init : Chain :=
  ⟨0x67452301#32, 0xEFCDAB89#32, 0x98BADCFE#32, 0x10325476#32, 0xC3D2E1F0#32⟩

/-- The number `z` of zero bytes in the padding of a message of `l` bytes (R91): the smallest natural
with `(l + 1 + z) mod 64 = 56`. -/
def padZeros (l : Nat) : Nat := (119 - l % 64) % 64

/-- `Pad(M)` (R91): the message, `0x80`, the zero bytes, the length in bits as `BE8`. -/
def sha1Pad (m : List Byte) : List Byte :=
  m ++ [0x80#8] ++ List.replicate (padZeros m.length) 0x00#8 ++ be8 (BitVec.ofNat 64 (8 * m.length))

/-- The first `n` blocks of 64 bytes of a padded message (R92). -/
def sha1Blocks : Nat → List Byte → List (List Byte)
  | 0, _ => []
  | n + 1, bs => bs.take 64 :: sha1Blocks n (bs.drop 64)

/-- The 16 words of a block, big-endian (R92): `M_i[t] = BE32(B_i[4t .. 4t+4])`. -/
def blockWords (b : List Byte) : List Word :=
  (List.range 16).map fun t =>
    be32 (b.getD (4 * t) 0) (b.getD (4 * t + 1) 0) (b.getD (4 * t + 2) 0) (b.getD (4 * t + 3) 0)

/-- The words `W[t-1], W[t-2], …, W[0]` of the schedule, newest first, after `n` words were added to
the list given: each is `ROTL(1, W[t-3] XOR W[t-8] XOR W[t-14] XOR W[t-16])` (R94). -/
def scheduleExtend : Nat → List Word → List Word
  | 0, ws => ws
  | n + 1, ws =>
    let prev := scheduleExtend n ws
    rotl 1 (prev.getD 2 0 ^^^ prev.getD 7 0 ^^^ prev.getD 13 0 ^^^ prev.getD 15 0) :: prev

/-- The message schedule `W[0], …, W[79]` of a block's 16 words (R94). -/
def schedule (m : List Word) : List Word := (scheduleExtend 64 m.reverse).reverse

/-- `f_t(b, c, d)` (R95). -/
def roundF (t : Nat) (b c d : Word) : Word :=
  if t < 20 then (b &&& c) ||| (~~~b &&& d)
  else if t < 40 then b ^^^ c ^^^ d
  else if t < 60 then (b &&& c) ||| (b &&& d) ||| (c &&& d)
  else b ^^^ c ^^^ d

/-- `K_t` (R95). -/
def roundK (t : Nat) : Word :=
  if t < 20 then 0x5A827999#32
  else if t < 40 then 0x6ED9EBA1#32
  else if t < 60 then 0x8F1BBCDC#32
  else 0xCA62C1D6#32

/-- Round `t` on the word `W[t]` (R96). -/
def sha1Round (t : Nat) (w : Word) (v : Chain) : Chain where
  a := rotl 5 v.a + roundF t v.b v.c v.d + v.e + roundK t + w
  b := v.a
  c := rotl 30 v.b
  d := v.c
  e := v.d

/-- The rounds `t, t+1, …`, one per schedule word of the list, in order (R96). -/
def sha1Rounds : Nat → List Word → Chain → Chain
  | _, [], v => v
  | t, w :: ws, v => sha1Rounds (t + 1) ws (sha1Round t w v)

/-- `Compress(H, B)` (R96). -/
def compress (h : Chain) (block : List Byte) : Chain :=
  let v := sha1Rounds 0 (schedule (blockWords block)) h
  ⟨h.a + v.a, h.b + v.b, h.c + v.c, h.d + v.d, h.e + v.e⟩

/-- `H^(N)` (R97): the chaining value after every block of the padded message. -/
def sha1Chain (m : List Byte) : Chain :=
  (sha1Blocks ((sha1Pad m).length / 64) (sha1Pad m)).foldl compress sha1Init

/-- The word `Hn` of a chaining value, `n` = 0 to 4. -/
def Chain.word (h : Chain) : Nat → Word
  | 0 => h.a
  | 1 => h.b
  | 2 => h.c
  | 3 => h.d
  | _ => h.e

/-- The 20 output bytes (R97): byte `4n + j` is `Hn[31-8j : 24-8j]`. -/
def Chain.bytes (h : Chain) : Vector Byte 20 :=
  Vector.ofFn fun k => wordByte (h.word (k.val / 4)) (k.val % 4)

/-- `SHA1(M)` (R98). Irreducible, so that the elaborator never computes a hash by accident; `unfold` and
`rw` open it, and the kernel evaluates it. -/
@[irreducible] def sha1 (m : List Byte) : Vector Byte 20 := (sha1Chain m).bytes

end Sys2Proof.Machine
end

