-- ==== Sys2Proof/Machine/Hmac.lean ====
section
/-! DEFINITION. The HMAC unit (spec R99 to R102) and the HMAC command (R105). -/

namespace Sys2Proof.Machine

/-- The key block `K0` (R100): a key of more than 64 bytes is hashed first; then zero fill to 64. -/
def keyBlock (k : List Byte) : List Byte :=
  let k' := if k.length > 64 then (sha1 k).toList else k
  k' ++ List.replicate (64 - k'.length) 0x00#8

/-- `ipad_block` and `opad_block` (R101, R102): every byte of `K0` XOR a pad byte. -/
def padBlock (pad : Byte) (k : List Byte) : List Byte := (keyBlock k).map (· ^^^ pad)

/-- `inner` (R101), with the inner pad byte `0x36` (R99). -/
def hmacInner (k text : List Byte) : Vector Byte 20 := sha1 (padBlock 0x36#8 k ++ text)

/-- `HMAC_SHA1(K, text)` (R102), with the outer pad byte `0x5C` (R99). Irreducible, as `sha1` is. -/
@[irreducible] def hmacSha1 (k text : List Byte) : Vector Byte 20 :=
  sha1 (padBlock 0x5C#8 k ++ (hmacInner k text).toList)

/-- HMAC (R105): KEYEMPTY when there is no key; otherwise the digest of the key and the counter's eight
bytes, and the later stages cleared. -/
def execHmac (s : State) : Host.Outcome State Fault Refusal :=
  if s.klen = 0 then raise .keyempty 0x00000010#32 s
  else .next (invalidate .selected { s with digest := hmacSha1 s.key s.text, dv := true })

end Sys2Proof.Machine
end

