-- ==== Sys2Proof/Machine/Select.lean ====
section
/-! DEFINITION. The byte selector and TRUNC (spec R109 to R113); the modular-reduction unit and MODR
(R114 to R118). -/

namespace Sys2Proof.Machine

/-- The offset (R109): the low 4 bits of the digest's last byte. -/
def selectOffset (d : Vector Byte 20) : BitVec 4 := d[19].extractLsb' 0 4

/-- The four selected bytes read big-endian (R110). The offset is at most 15, so the highest index is
18 and the selection never leaves the digest. -/
def selectRaw (d : Vector Byte 20) : Word :=
  let o := selectOffset d
  be32 (d[o.toNat]'(by omega)) (d[o.toNat + 1]'(by omega)) (d[o.toNat + 2]'(by omega))
    (d[o.toNat + 3]'(by omega))

/-- `Select(digest)` (R112): the offset and the selected value with bit 31 cleared (R111). -/
def select (d : Vector Byte 20) : BitVec 4 × BitVec 31 :=
  (selectOffset d, (selectRaw d &&& 0x7FFFFFFF#32).setWidth 31)

/-- Repeated multiplication by ten (R114's loop). -/
def timesTen : Nat → Nat
  | 0 => 1
  | n + 1 => timesTen n * 10

/-- The modulus `M(d) = 10^min(d, 8)` (R114). -/
def modulus (d : Nat) : Nat := timesTen (min d 8)

/-- `ModRed(p, d) = p mod M(d)` (R116). -/
def modRed (p d : Nat) : Nat := p % modulus d

/-- The 27-bit code of a selected value and a digit count (R26, R117); `M(d) <= 10^8 < 2^27`. -/
def codeOf (p : BitVec 31) (d : BitVec 4) : BitVec 27 := BitVec.ofNat 27 (modRed p.toNat d.toNat)

/-- TRUNC (R113): SEQ when there is no digest; otherwise the selected stage, and the later stages
cleared. -/
def execTrunc (s : State) : Host.Outcome State Fault Refusal :=
  if s.dv = false then raise .seq 0x00000011#32 s
  else
    .next (invalidate .code
      { s with offset := (select s.digest).1, sel := (select s.digest).2, sv := true })

/-- MODR (R117): SEQ when there is no selected value, then DIGITS when the digit count is not 1 to 8;
otherwise the code stage, and the out stage cleared. -/
def execModr (s : State) : Host.Outcome State Fault Refusal :=
  if s.sv = false then raise .seq 0x00000012#32 s
  else if s.digitsOk = false then raise .digits 0x00000012#32 s
  else .next (invalidate .out { s with code := codeOf s.sel s.digits, cv := true })

end Sys2Proof.Machine
end

