-- ==== Sys2Proof/Machine/Hotp.lean ====
section
/-! DEFINITION. The composite command HOTP (spec R125). -/

namespace Sys2Proof.Machine

/-- HOTP (R125): KEYEMPTY, then DIGITS, both before anything is computed; otherwise all four stages from
the key, the counter and the digit count, and all four flags set. -/
def execHotp (s : State) : Host.Outcome State Fault Refusal :=
  if s.klen = 0 then raise .keyempty 0x0000001F#32 s
  else if s.digitsOk = false then raise .digits 0x0000001F#32 s
  else
    let d := hmacSha1 s.key s.text
    let c := codeOf (select d).2 s.digits
    .next
      { s with
        digest := d, dv := true
        offset := (select d).1, sel := (select d).2, sv := true
        code := c, cv := true
        out := fmt c.toNat s.digits.toNat, outlen := s.digits, ov := true }

end Sys2Proof.Machine
end

