-- ==== Sys2Proof/Machine/Dispatch.lean ====
section
/-! DEFINITION. One arm per command (spec R76). A command runs only when the port is not frozen, but for
CLR (R85); that check is the port's (`Machine/Port.lean`). -/

namespace Sys2Proof.Machine

def exec (i : Instr) (s : State) : Host.Outcome State Fault Refusal :=
  match i with
  | .nop => Sys2Proof.Machine.execNop s
  | .clr => Sys2Proof.Machine.execClr s
  | .keyclr => Sys2Proof.Machine.execKeyclr s
  | .hmac => Sys2Proof.Machine.execHmac s
  | .trunc => Sys2Proof.Machine.execTrunc s
  | .modr => Sys2Proof.Machine.execModr s
  | .fmt => Sys2Proof.Machine.execFmt s
  | .hotp => Sys2Proof.Machine.execHotp s

end Sys2Proof.Machine
end

