-- ==== Sys2Proof/Machine/Port.lean ====
section
/-! DEFINITION. The register port: the two transactions and the hardware reset as functions of the state
(spec R46, R58 to R62, R149). -/

namespace Sys2Proof.Machine

/-- The information of a BUS fault of a write (R131): the offset, and bit 8 set. -/
def busWriteInfo (a : Offset) : Word := 0x100#32 ||| a.setWidth 32

/-- The information of a BUS or RDINV fault of a read (R131): the offset. -/
def readInfo (a : Offset) : Word := a.setWidth 32

/-- A word written to CMD while not frozen (R62): the command it names is executed in the same step;
a word that names none raises ILLCMD with the word itself (R78). -/
def execWord (data : Word) (s : State) : Host.Outcome State Fault Refusal :=
  match decode data with
  | .ok i => exec i s
  | .error _ => raise .illcmd data s

/-- A write to a register, not frozen (R58 lines 4 to 9). -/
def regWrite (r : Reg) (a : Offset) (data : Word) (s : State) : Host.Outcome State Fault Refusal :=
  match r with
  | .cmd => execWord data s
  | .status => raise .bus (busWriteInfo a) s
  | .err => raise .bus (busWriteInfo a) s
  | .einfo => raise .bus (busWriteInfo a) s
  | .keyPush => pushKey data s
  | .klen => raise .bus (busWriteInfo a) s
  | .ctrHi => .next (writeCtrHi data s)
  | .ctrLo => .next (writeCtrLo data s)
  | .digits => .next (writeDigits data s)
  | .digest0 => raise .bus (busWriteInfo a) s
  | .digest1 => raise .bus (busWriteInfo a) s
  | .digest2 => raise .bus (busWriteInfo a) s
  | .digest3 => raise .bus (busWriteInfo a) s
  | .digest4 => raise .bus (busWriteInfo a) s
  | .offset => raise .bus (busWriteInfo a) s
  | .sel => raise .bus (busWriteInfo a) s
  | .code => raise .bus (busWriteInfo a) s
  | .out0 => raise .bus (busWriteInfo a) s
  | .out1 => raise .bus (busWriteInfo a) s
  | .outLen => raise .bus (busWriteInfo a) s

/-- `MemWrite(addr, 4, data)` (R58), in the order of its cases. While frozen only CLR's word at offset
`0x00` has an effect (R60). -/
def memWrite (a : Offset) (data : Word) (s : State) : Host.Outcome State Fault Refusal :=
  if s.frozen then
    if a = 0x00#8 ∧ data = 0x00000001#32 then exec .clr s else .next s
  else if misaligned a then raise .bus (busWriteInfo a) s
  else if unmapped a then raise .bus (busWriteInfo a) s
  else
    match regAt a with
    | some r => regWrite r a data s
    | none => raise .bus (busWriteInfo a) s

/-- The registers whose value is read in any state (R61, R67). -/
def readInAnyState : Reg → Bool
  | .cmd => false
  | .status => true
  | .err => true
  | .einfo => true
  | .keyPush => false
  | .klen => true
  | .ctrHi => true
  | .ctrLo => true
  | .digits => true
  | .digest0 => false
  | .digest1 => false
  | .digest2 => false
  | .digest3 => false
  | .digest4 => false
  | .offset => false
  | .sel => false
  | .code => false
  | .out0 => false
  | .out1 => false
  | .outLen => false

/-- A read while frozen (R61): a register's value or 0. -/
def frozenRead (a : Offset) (s : State) : Word :=
  match regAt a with
  | some r => if readInAnyState r then (regView r s).getD 0x00000000#32 else 0x00000000#32
  | none => 0x00000000#32

/-- A read of a register, not frozen (R59 lines 4 to 6): BUS for a write-only register, RDINV for a
result register whose stage is not valid (R68), otherwise the register's value. -/
def regRead (r : Reg) (a : Offset) (s : State) : State × Word :=
  match regView r s with
  | none => (enterFault .bus (readInfo a) s, 0x00000000#32)
  | some w =>
    match regStage r with
    | none => (s, w)
    | some st =>
      match s.valid st with
      | true => (s, w)
      | false => (enterFault .rdinv (readInfo a) s, 0x00000000#32)

/-- `MemRead(addr, 4)` (R59), in the order of its cases: the state after it and the word returned. -/
def memRead (a : Offset) (s : State) : State × Word :=
  if s.frozen then (s, frozenRead a s)
  else if misaligned a then (enterFault .bus (readInfo a) s, 0x00000000#32)
  else if unmapped a then (enterFault .bus (readInfo a) s, 0x00000000#32)
  else
    match regAt a with
    | some r => regRead r a s
    | none => (enterFault .bus (readInfo a) s, 0x00000000#32)

/-- One event of the port (R46): a write, a read whose word is returned to the host, or the hardware
reset, which has the same effect from every state (R149). -/
def perform (e : Event) (s : State) : Host.Outcome State Fault Refusal :=
  match e with
  | .write a data => memWrite a data s
  | .read a => .next { (memRead a s).1 with rdata := some (memRead a s).2 }
  | .reset => .next (resetFields s)

/-- The state in which the next event is performed: it has left the list of pending events, and nothing
has been returned for it yet. -/
def accept (rest : List Event) (s : State) : State := { s with pending := rest, rdata := none }

end Sys2Proof.Machine
end

