-- ==== Sys2Proof/Machine/Step.lean ====
section
/-! DEFINITION. One step is one event on the core's port (spec R6, R48), the next of those pending. The
core never initiates a transaction (R46): with none pending the step leaves the state as it is (log
entry 3). -/

namespace Sys2Proof.Machine

/-- One step (R6): the next pending event, performed to completion before the next is accepted. -/
def step (s : State) : Host.Outcome State Fault Refusal :=
  match s.pending with
  | [] => .next s
  | e :: rest => perform e (accept rest s)

/-- The core fetches nothing (R17): a command runs in the step in which its word is written to CMD
(R30). So the word is presented as the next event, a write of it to offset `0x00` (log entry 4). -/
def State.withFetchWord (s : State) (nbits w : Nat) : State :=
  { s with pending := .write 0x00#8 (BitVec.ofNat 32 (w % 2 ^ nbits)) :: s.pending }

end Sys2Proof.Machine
end

