-- ==== Sys2Proof/Machine/Assemble.lean ====
section
/-! DEFINITION. Programs for the core as records of port events (spec R81), with the reading of a record
back, and the assembler notation's expansion into events (R82, R83). -/

namespace Sys2Proof.Machine

/-- The hex digit of a value below 16. -/
def hexDigit (v : Nat) : Char := Char.ofNat (if v < 10 then 0x30 + v else 0x37 + v)

/-- The value of a hex digit, in either case (log entry 12). -/
def hexValue (c : Char) : Option Nat :=
  if 0x30 ≤ c.toNat ∧ c.toNat ≤ 0x39 then some (c.toNat - 0x30)
  else if 0x41 ≤ c.toNat ∧ c.toNat ≤ 0x46 then some (c.toNat - 0x37)
  else if 0x61 ≤ c.toNat ∧ c.toNat ≤ 0x66 then some (c.toNat - 0x57)
  else none

/-- `n` hex digits of a value, most significant first. -/
def hexDigits : Nat → Nat → List Char
  | 0, _ => []
  | n + 1, v => hexDigits n (v / 16) ++ [hexDigit (v % 16)]

/-- The value of a list of hex digits read from the left, `acc` being what stands to their left. -/
def hexNumber : Nat → List Char → Option Nat
  | acc, [] => some acc
  | acc, c :: cs =>
    match hexValue c with
    | some v => hexNumber (16 * acc + v) cs
    | none => none

/-- The record of an event (R81): `W aa dddddddd`, `R aa` or `RST`. -/
def eventRecord : Event → List Char
  | .write a data => ['W', ' '] ++ hexDigits 2 a.toNat ++ [' '] ++ hexDigits 8 data.toNat
  | .read a => ['R', ' '] ++ hexDigits 2 a.toNat
  | .reset => ['R', 'S', 'T']

/-- The event a record stands for (R81), or none if the text is no record. -/
def parseRecord : List Char → Option Event
  | ['R', 'S', 'T'] => some .reset
  | ['R', ' ', a1, a0] =>
    match hexNumber 0 [a1, a0] with
    | some a => some (.read (BitVec.ofNat 8 a))
    | none => none
  | ['W', ' ', a1, a0, ' ', d7, d6, d5, d4, d3, d2, d1, d0] =>
    match hexNumber 0 [a1, a0], hexNumber 0 [d7, d6, d5, d4, d3, d2, d1, d0] with
    | some a, some d => some (.write (BitVec.ofNat 8 a) (BitVec.ofNat 32 d))
    | _, _ => none
  | _ => none

/-- `wr REG, value` (R82). -/
def writeEvent (r : Reg) (value : Nat) : Event := .write (regOffset r) (BitVec.ofNat 32 value)

/-- The bytes of a list of hex digit values, two digits a byte, the leftmost more significant. -/
def hexBytes : List Nat → List Nat
  | h :: l :: rest => (16 * h + l) :: hexBytes rest
  | _ => []

/-- The events a statement assembles to (R82, R83). -/
def assembleStmt : Stmt → List Event
  | .wr r value => [writeEvent r value]
  | .rd r => [.read (regOffset r)]
  | .cmd i => [.write (regOffset .cmd) (encode i)]
  | .reset => [.reset]
  | .keyb b => [writeEvent .keyPush b]
  | .key h => (hexBytes h).map (writeEvent .keyPush)
  | .keys text => text.map fun c => writeEvent .keyPush c.toNat
  | .ctr v => [writeEvent .ctrHi (v / 2 ^ 32), writeEvent .ctrLo (v % 2 ^ 32)]
  | .digits n => [writeEvent .digits n]
  | .short i => [.write (regOffset .cmd) (encode i)]

/-- A program: its statements' events, in order (R81). -/
def assemble (p : List Stmt) : List Event := p.flatMap assembleStmt

end Sys2Proof.Machine
end

