-- ==== Sys2Proof/Machine/HostSide.lean ====
section
/-! DEFINITION. The host's side of the contract, as far as the spec gives it (R164, R165, R167, R168).
It is software around the core (R5), no part of the machine: no step depends on it. Base32 decoding
(R166) and the enrollment URI's escaping (R170) are not given by the spec and are not here. -/

namespace Sys2Proof.Machine

/-- Counter derivation (R164): `floor(time / period)`; a zero period is the host's failure (R165). -/
def hostCounter (time period : Nat) : Option Nat :=
  if period = 0 then none else some (time / period)

/-- What `Code()` does with the core from its reset state (R154, R167): load the decoded key, the
counter and the digit count, issue HOTP, read OUT_LEN, OUT0 and OUT1. -/
def hostCodeProgram (key : List Byte) (counter digits : Nat) : List Stmt :=
  key.map (fun b => .keyb b.toNat) ++
    [.ctr counter, .digits digits, .short .hotp, .rd .outLen, .rd .out0, .rd .out1]

/-- The string `Code()` returns (R167): the first OUT_LEN bytes of OUT0 and OUT1. -/
def hostCodeString (outLen out0 out1 : Word) : List Byte :=
  (bytes32 out0 ++ bytes32 out1).take outLen.toNat

/-- `Verify(candidate)` (R168): a candidate of another length is rejected before the code is computed;
otherwise it is compared with the code, whose error, if any, is passed on. -/
def hostVerify {ε : Type} (candidate : List Byte) (digits : Nat) (code : Unit → Except ε (List Byte)) :
    Except ε Bool :=
  if candidate.length ≠ digits then .ok false
  else
    match code () with
    | .ok s => .ok (candidate == s)
    | .error e => .error e

end Sys2Proof.Machine
end

