-- ==== Sys2Proof/Safety.lean ====
section
/-! DEFINITION. What claims speak of: the invariant of the reachable states (spec R38 to R44, with the
ranges of R7, R13, R32 and the EINFO layout of R131), and which states agree on everything but the key
(R144). -/

namespace Sys2Proof.Machine

/-- The information recorded with a fault has the layout of R131 for its code, and only the codes 0 to 7
occur (R32, R130). -/
def einfoOk (ecode : BitVec 4) (einfo : Word) : Prop :=
  (ecode = 0#4 ∧ einfo = 0#32) ∨
  (ecode = FaultCode.illcmd.code ∧ ∃ u, decode einfo = .error u) ∨
  (ecode = FaultCode.bus.code ∧ ∃ a : Offset, einfo = a.setWidth 32 ∨ einfo = 0x100#32 ||| a.setWidth 32) ∨
  (ecode = FaultCode.keyovf.code ∧ einfo = 0x110#32) ∨
  (ecode = FaultCode.keyempty.code ∧ (einfo = encode .hmac ∨ einfo = encode .hotp)) ∨
  (ecode = FaultCode.digits.code ∧ (einfo = encode .modr ∨ einfo = encode .hotp)) ∨
  (ecode = FaultCode.seq.code ∧
    (einfo = encode .trunc ∨ einfo = encode .modr ∨ einfo = encode .fmt)) ∨
  (ecode = FaultCode.rdinv.code ∧
    ∃ r st, regStage r = some st ∧ einfo = (regOffset r).setWidth 32)

/-- The invariant of the machine. Its clauses are the spec's own (R38 to R44) and the ranges its fields
have by R7, R13, R32 and R131. -/
structure CoreInv (s : State) : Prop where
  /-- R7 -/
  keyMax_pos : 1 ≤ s.keyMax
  /-- R7 -/
  keyMax_le : s.keyMax ≤ Config.keyMaxLimit
  /-- R13: `keybuf` is an array of `KEY_MAX` bytes -/
  keybuf_length : s.keybuf.length = s.keyMax
  /-- R13, R19 -/
  klen_le : s.klen ≤ s.keyMax
  /-- R44 -/
  keybuf_tail : ∀ i, s.klen ≤ i → i < s.keyMax → s.keybuf[i]? = some 0x00#8
  /-- R38 -/
  digest_ok : s.dv = true → s.ecode = 0#4 ∧ 1 ≤ s.klen ∧ s.digest = hmacSha1 s.key s.text
  /-- R39 -/
  selected_ok : s.sv = true → s.dv = true ∧ (s.offset, s.sel) = select s.digest
  /-- R40 -/
  code_ok : s.cv = true →
    s.sv = true ∧ 1 ≤ s.digits.toNat ∧ s.digits.toNat ≤ 8 ∧
      s.code.toNat = s.sel.toNat % 10 ^ s.digits.toNat ∧ s.code.toNat < 10 ^ s.digits.toNat
  /-- R41 -/
  out_ok : s.ov = true →
    s.cv = true ∧ s.outlen = s.digits ∧ s.out = fmt s.code.toNat s.digits.toNat
  /-- R42 -/
  frozen_clear : s.ecode ≠ 0#4 → s.dv = false ∧ s.sv = false ∧ s.cv = false ∧ s.ov = false
  /-- R43 -/
  digest_clear : s.dv = false → s.digest = Vector.replicate 20 0x00#8
  /-- R43 -/
  selected_clear : s.sv = false → s.offset = 0#4 ∧ s.sel = 0#31
  /-- R43 -/
  code_clear : s.cv = false → s.code = 0#27
  /-- R43 -/
  out_clear : s.ov = false → s.out = Vector.replicate 8 0x00#8 ∧ s.outlen = 0#4
  /-- R32, R43, R131 -/
  einfo_ok : einfoOk s.ecode s.einfo

/-- Two states that may differ only in the key's bytes and in what is computed from them: all that the
port shows without a result register, and which stages are valid, is the same (R144). -/
structure SameButKeyBytes (s t : State) : Prop where
  keyMax : s.keyMax = t.keyMax
  klen : s.klen = t.klen
  ctr : s.ctr = t.ctr
  digits : s.digits = t.digits
  dv : s.dv = t.dv
  sv : s.sv = t.sv
  cv : s.cv = t.cv
  ov : s.ov = t.ov
  ecode : s.ecode = t.ecode
  einfo : s.einfo = t.einfo
  pending : s.pending = t.pending

end Sys2Proof.Machine
end

