-- ==== Sys2Proof/Certificates/Slice0/Obligations.lean ====
section
/-! DEFINITION. The statements for the provers, each about the machine as the spec's numbered rules give
it. None is about a program. Where a conclusion is an equation of states, it also says the frame: a field
that is not named is as it was. Result registers and flags are written out, not as `invalidate`. -/

open Sys2Proof Sys2Proof.Machine

/-! ### Reset and the invariant -/

/-- R37: the value of every field after a hardware reset and after CLR, from every state and for every
value of the parameter, and in the state the machine starts in. That one has the parameter's default
(R7). -/
def Obligations.ResetValuesOfEveryField : Prop :=
  State.reset = State.resetTo 128 ∧
  ∀ s t, (∃ q, s.pending = .reset :: q ∧ step s = .next t) ∨ exec .clr s = .next t ∨
      t = State.resetTo s.keyMax →
    t.keyMax = s.keyMax ∧
    t.keybuf.length = s.keyMax ∧
    (∀ i, i < s.keyMax → t.keybuf[i]? = some 0x00#8) ∧
    t.klen = 0 ∧
    t.ctr = 0#64 ∧
    t.digits = 0#4 ∧
    (∀ i : Fin 20, t.digest[i] = 0x00#8) ∧
    t.offset = 0#4 ∧
    t.sel = 0#31 ∧
    t.code = 0#27 ∧
    (∀ i : Fin 8, t.out[i] = 0x00#8) ∧
    t.outlen = 0#4 ∧
    t.dv = false ∧
    t.sv = false ∧
    t.cv = false ∧
    t.ov = false ∧
    t.ecode = 0#4 ∧
    t.einfo = 0#32

/-- R149, R151: a hardware reset puts every field at its reset value from every state, frozen or not, and
CLR reaches the same state. -/
def Obligations.HardwareResetFromEveryState : Prop :=
  (∀ s q, s.pending = .reset :: q →
    ∃ r, step s = .next { State.resetTo s.keyMax with pending := q, rdata := r }) ∧
  ∀ s, ∃ r, exec .clr s = .next { State.resetTo s.keyMax with pending := s.pending, rdata := r }

/-- R150: after reset the control and operand registers read 0 and change nothing, and a read of any
result register faults with RDINV. -/
def Obligations.ReadsAfterReset : Prop :=
  ∀ k q x s r, s = { State.resetTo k with pending := q, rdata := x } →
    (r ∈ [Reg.status, .err, .einfo, .klen, .ctrHi, .ctrLo, .digits] →
      memRead (regOffset r) s = (s, 0x00000000#32)) ∧
    (r ∈ [Reg.digest0, .digest1, .digest2, .digest3, .digest4, .offset, .sel, .code, .out0, .out1,
        .outLen] →
      memRead (regOffset r) s = (enterFault .rdinv ((regOffset r).setWidth 32) s, 0x00000000#32))

/-- R37 to R44: the invariant holds in the reset state, for every value the parameter may have. -/
def Obligations.ResetStateSatisfiesInvariant : Prop :=
  CoreInv State.reset ∧ ∀ k, 1 ≤ k → k ≤ 65535 → CoreInv (State.resetTo k)

/-- R38 to R44: every step keeps the invariant, from every state that meets it, whatever the event. -/
def Obligations.EveryStepKeepsInvariant : Prop :=
  ∀ s t, CoreInv s → step s = .next t → CoreInv t

/-! ### The commands -/

/-- R86: NOP changes no state field, executed or ignored. -/
def Obligations.NopChangesNothing : Prop :=
  decode 0x00000000#32 = .ok .nop ∧
  ∀ s, exec .nop s = .next s ∧ memWrite 0x00#8 0x00000000#32 s = .next s

/-- R87: CLR puts every field at its reset value, as the hardware reset does, and runs in every state,
frozen or not; in the reset state it changes nothing; its opcode under a ZERO field that is not 0 is not
CLR; no other transaction has an effect while frozen. -/
def Obligations.ClrResetsEveryField : Prop :=
  (∀ s, exec .clr s =
      .next { State.resetTo s.keyMax with pending := s.pending, rdata := s.rdata } ∧
    memWrite 0x00#8 0x00000001#32 s = exec .clr s ∧ perform .reset s = exec .clr s) ∧
  (∀ k, exec .clr (State.resetTo k) = .next (State.resetTo k)) ∧
  (∀ s d, d.extractLsb' 0 8 = 0x01#8 → d.extractLsb' 8 24 ≠ 0#24 →
    memWrite 0x00#8 d s = .next (if s.ecode = 0#4 then enterFault .illcmd d s else s)) ∧
  ∀ s a d, s.ecode ≠ 0#4 →
    ((a, d) ≠ (0x00#8, 0x00000001#32) → memWrite a d s = .next s) ∧ (memRead a s).1 = s

/-- R88: KEYCLR zeroises the key and clears every stage; counter, digit count and fault registers are as
they were; while frozen it is ignored; with no key loaded it changes nothing, in every state that meets
the invariant. -/
def Obligations.KeyclrZeroisesTheKey : Prop :=
  decode 0x00000002#32 = .ok .keyclr ∧
  (∀ s, exec .keyclr s = .next { s with
      keybuf := List.replicate s.keyMax 0x00#8, klen := 0
      digest := Vector.replicate 20 0x00#8, dv := false
      offset := 0#4, sel := 0#31, sv := false
      code := 0#27, cv := false
      out := Vector.replicate 8 0x00#8, outlen := 0#4, ov := false }) ∧
  (∀ s, s.ecode ≠ 0#4 → memWrite 0x00#8 0x00000002#32 s = .next s) ∧
  ∀ s, CoreInv s → s.klen = 0 → exec .keyclr s = .next s

/-- R105: HMAC of the key and the counter's eight bytes, or KEYEMPTY. -/
def Obligations.HmacComputesTheDigest : Prop :=
  decode 0x00000010#32 = .ok .hmac ∧
  (∀ s, s.klen = 0 → exec .hmac s = .next (enterFault .keyempty 0x00000010#32 s)) ∧
  ∀ s, s.klen ≠ 0 → exec .hmac s = .next { s with
      digest := hmacSha1 (s.keybuf.take s.klen) (be8 s.ctr), dv := true
      offset := 0#4, sel := 0#31, sv := false
      code := 0#27, cv := false
      out := Vector.replicate 8 0x00#8, outlen := 0#4, ov := false }

/-- R113: TRUNC, or SEQ. -/
def Obligations.TruncSelectsTheValue : Prop :=
  decode 0x00000011#32 = .ok .trunc ∧
  (∀ s, s.dv = false → exec .trunc s = .next (enterFault .seq 0x00000011#32 s)) ∧
  ∀ s, s.dv = true → exec .trunc s = .next { s with
      offset := (select s.digest).1, sel := (select s.digest).2, sv := true
      code := 0#27, cv := false
      out := Vector.replicate 8 0x00#8, outlen := 0#4, ov := false }

/-- R117: MODR, or SEQ, or (with a selected value) DIGITS; the code is the remainder by `10^digits`, and
lies below it. -/
def Obligations.ModrReducesTheValue : Prop :=
  decode 0x00000012#32 = .ok .modr ∧
  (∀ s, s.sv = false → exec .modr s = .next (enterFault .seq 0x00000012#32 s)) ∧
  (∀ s, s.sv = true → s.digits.toNat < 1 ∨ 8 < s.digits.toNat →
    exec .modr s = .next (enterFault .digits 0x00000012#32 s)) ∧
  ∀ s, s.sv = true → 1 ≤ s.digits.toNat → s.digits.toNat ≤ 8 →
    ∃ c : BitVec 27, c.toNat = s.sel.toNat % 10 ^ s.digits.toNat ∧
      c.toNat < 10 ^ s.digits.toNat ∧
      exec .modr s = .next { s with
        code := c, cv := true
        out := Vector.replicate 8 0x00#8, outlen := 0#4, ov := false }

/-- R122: FMT, or SEQ; the bytes of the string are R121's. The spec defines them for a digit count of 1
to 8 and a code that fits, which a valid code implies (R40); in states no run reaches, the string is a
free value (log entry 5) and the rest is as always. -/
def Obligations.FmtWritesTheString : Prop :=
  decode 0x00000013#32 = .ok .fmt ∧
  (∀ s, s.cv = false → exec .fmt s = .next (enterFault .seq 0x00000013#32 s)) ∧
  (∀ s, s.cv = true → ∃ o, exec .fmt s = .next { s with out := o, outlen := s.digits, ov := true }) ∧
  ∀ s, s.cv = true → 1 ≤ s.digits.toNat → s.digits.toNat ≤ 8 →
    s.code.toNat < 10 ^ s.digits.toNat →
    ∃ o : Vector Byte 8,
      (∀ i : Fin 8, o[i] = if i.val < s.digits.toNat then
          BitVec.ofNat 8 (0x30 + s.code.toNat / 10 ^ (s.digits.toNat - 1 - i.val) % 10)
        else 0x00#8) ∧
      exec .fmt s = .next { s with out := o, outlen := s.digits, ov := true }

/-- R125: HOTP, or KEYEMPTY, or (with a key) DIGITS; every stage is set from the key, the counter and the
digit count. -/
def Obligations.HotpComputesEveryStage : Prop :=
  decode 0x0000001F#32 = .ok .hotp ∧
  (∀ s, s.klen = 0 → exec .hotp s = .next (enterFault .keyempty 0x0000001F#32 s)) ∧
  (∀ s, s.klen ≠ 0 → s.digits.toNat < 1 ∨ 8 < s.digits.toNat →
    exec .hotp s = .next (enterFault .digits 0x0000001F#32 s)) ∧
  ∀ s, s.klen ≠ 0 → 1 ≤ s.digits.toNat → s.digits.toNat ≤ 8 →
    ∃ d p c, d = hmacSha1 (s.keybuf.take s.klen) (be8 s.ctr) ∧
      p = (select d).2 ∧
      c.toNat = p.toNat % 10 ^ s.digits.toNat ∧
      exec .hotp s = .next { s with
        digest := d, dv := true
        offset := (select d).1, sel := p, sv := true
        code := c, cv := true
        out := fmt c.toNat s.digits.toNat, outlen := s.digits, ov := true }

/-- R126: from a state that is not frozen, with a key and a valid digit count, HOTP leaves exactly the
state of HMAC, TRUNC, MODR, FMT in that order; with no key both fault with KEYEMPTY, with an invalid
digit count both with DIGITS, and the final states agree except for EINFO. -/
def Obligations.HotpEqualsTheFourCommands : Prop :=
  ∀ s, s.ecode = 0#4 → ∃ s₁ s₂ s₃ t h,
    memWrite 0x00#8 0x00000010#32 s = .next s₁ ∧ memWrite 0x00#8 0x00000011#32 s₁ = .next s₂ ∧
    memWrite 0x00#8 0x00000012#32 s₂ = .next s₃ ∧ memWrite 0x00#8 0x00000013#32 s₃ = .next t ∧
    memWrite 0x00#8 0x0000001F#32 s = .next h ∧
    (s.klen ≠ 0 → 1 ≤ s.digits.toNat → s.digits.toNat ≤ 8 → t = h ∧ h.ecode = 0#4) ∧
    (s.klen = 0 → h.ecode = FaultCode.keyempty.code ∧ h.einfo = 0x0000001F#32 ∧
      t = { h with einfo := 0x00000010#32 }) ∧
    (s.klen ≠ 0 → s.digits.toNat < 1 ∨ 8 < s.digits.toNat →
      s₂.ecode = 0#4 ∧ s₂.sv = true ∧ h.ecode = FaultCode.digits.code ∧ h.einfo = 0x0000001F#32 ∧
        t = { h with einfo := 0x00000012#32 })

/-- R69: a command word written to CMD twice in a row leaves the same state as written once, whatever the
word and the state, and a write to CTR_HI, CTR_LO or DIGITS likewise. -/
def Obligations.RepeatedWriteIsIdempotent : Prop :=
  ∀ s t a d, a ∈ [0x00#8, 0x18#8, 0x1C#8, 0x20#8] → memWrite a d s = .next t →
    memWrite a d t = .next t

/-! ### Decoding and the step -/

/-- R77: a word selects a command if and only if it is one of the eight words of the opcode map, that is,
ZERO is 0 and OPC one of the eight opcodes; and then it selects the command that is encoded so. -/
def Obligations.DecodeSelectsExactlyTheEightWords : Prop :=
  (∀ w i, decode w = .ok i ↔ w = encode i) ∧
  ∀ w, ((∃ i, decode w = .ok i) ↔
      w ∈ [0x00#32, 0x01#32, 0x02#32, 0x10#32, 0x11#32, 0x12#32, 0x13#32, 0x1F#32]) ∧
    ((∃ i, decode w = .ok i) ↔
      w.extractLsb' 8 24 = 0#24 ∧
      w.extractLsb' 0 8 ∈ [0x00#8, 0x01#8, 0x02#8, 0x10#8, 0x11#8, 0x12#8, 0x13#8, 0x1F#8])

/-- R76: the eight command words, written out. -/
def Obligations.CommandWordsDecode : Prop :=
  decode 0x00000000#32 = .ok .nop ∧ decode 0x00000001#32 = .ok .clr ∧
  decode 0x00000002#32 = .ok .keyclr ∧ decode 0x00000010#32 = .ok .hmac ∧
  decode 0x00000011#32 = .ok .trunc ∧ decode 0x00000012#32 = .ok .modr ∧
  decode 0x00000013#32 = .ok .fmt ∧ decode 0x0000001F#32 = .ok .hotp

/-- R76, R77: the encoding of every well-formed command decodes to it, also as the opcode table numbers
its bits. -/
def Obligations.DecodeAfterEncode : Prop :=
  ∀ i : Instr, i.wf = true →
    decode (encode i) = .ok i ∧ decodeTableWord 32 (encode i).toNat = some i

/-- R81: the record of an event reads back as the event, for every offset and every word. -/
def Obligations.RecordReadsBackAsItsEvent : Prop :=
  ∀ e, parseRecord (eventRecord e) = some e

/-- R62, R78: a word that is not one of the eight raises ILLCMD with the word itself and does nothing
else; while frozen it is ignored. -/
def Obligations.UndefinedWordRaisesIllcmd : Prop :=
  ∀ s d, d ∉ [0x00#32, 0x01#32, 0x02#32, 0x10#32, 0x11#32, 0x12#32, 0x13#32, 0x1F#32] →
    (s.ecode = 0#4 → memWrite 0x00#8 d s = .next (enterFault .illcmd d s)) ∧
    (s.ecode ≠ 0#4 → memWrite 0x00#8 d s = .next s)

/-- R30, R62: when the next event writes a command's word to CMD and the core is not frozen, the step is
that command, executed on the state from which the event was taken; `withFetchWord` presents a word so. -/
def Obligations.StepRunsTheDecodedCommand : Prop :=
  (∀ s q d i, s.pending = .write 0x00#8 d :: q → s.ecode = 0#4 → decode d = .ok i →
    step s = exec i { s with pending := q, rdata := none }) ∧
  ∀ (s : State) w i, w < 2 ^ 32 → s.ecode = 0#4 → decode (BitVec.ofNat 32 w) = .ok i →
    step (s.withFetchWord 32 w) = exec i { s with rdata := none }

/-- R6, R46: a step is the next event of the port: a write, a read that returns its word, or the reset.
With no event the state stays as it is, which is the model's choice (log entry 3). -/
def Obligations.StepPerformsTheNextEvent : Prop :=
  (∀ s, s.pending = [] → step s = .next s) ∧
  (∀ s q a d, s.pending = .write a d :: q →
    step s = memWrite a d { s with pending := q, rdata := none }) ∧
  ∀ s q a, s.pending = .read a :: q →
    step s = .next { (memRead a { s with pending := q, rdata := none }).1 with
      rdata := some (memRead a { s with pending := q, rdata := none }).2 }

/-- R48: the state after a transaction is a function of the state before it and of the transaction alone:
what is still pending, and what an earlier read returned, change nothing of it; one event is taken. -/
def Obligations.StepDependsOnTheEventAlone : Prop :=
  ∀ s e q q' r, s.pending = e :: q →
    ∃ t, step s = .next t ∧ t.pending = q ∧
      step { s with pending := e :: q', rdata := r } = .next { t with pending := q' }

/-- R163: every transaction completes; no step faults, refuses or hangs. That one event is taken, and
none where nothing is pending, is the model's choice (log entries 2 and 3), and so is the parameter as a
field that stays (log entry 1). -/
def Obligations.EveryStepCompletes : Prop :=
  ∀ s, ∃ t, step s = .next t ∧ t.pending = s.pending.tail ∧ t.keyMax = s.keyMax

/-! ### The port -/

/-- R58, R60: the decode of a write, case by case. -/
def Obligations.MemWriteDecodesInOrder : Prop :=
  ∀ s a d,
    (s.ecode ≠ 0#4 → memWrite a d s =
      if a = 0x00#8 ∧ d = 0x00000001#32 then exec .clr s else .next s) ∧
    (s.ecode = 0#4 →
      (a.extractLsb' 0 2 ≠ 0#2 ∨ 0x50 ≤ a.toNat ∨
          a ∈ [0x04#8, 0x08#8, 0x0C#8, 0x14#8, 0x24#8, 0x28#8, 0x2C#8, 0x30#8, 0x34#8, 0x38#8,
            0x3C#8, 0x40#8, 0x44#8, 0x48#8, 0x4C#8] →
        memWrite a d s = .next (enterFault .bus (0x100#32 ||| a.setWidth 32) s)) ∧
      (a = 0x00#8 → memWrite a d s = execWord d s) ∧
      (a = 0x10#8 → memWrite a d s = pushKey d s) ∧
      (a = 0x18#8 → memWrite a d s = .next (writeCtrHi d s)) ∧
      (a = 0x1C#8 → memWrite a d s = .next (writeCtrLo d s)) ∧
      (a = 0x20#8 → memWrite a d s = .next (writeDigits d s)))

/-- R59, R61, R68: the decode of a read, case by case, with the offsets of R16 and the flags of R68
written out: the state after it and the word returned. -/
def Obligations.MemReadDecodesInOrder : Prop :=
  ∀ s a,
    (∀ r, (a, r) ∈ [(0x04#8, Reg.status), (0x08#8, .err), (0x0C#8, .einfo), (0x14#8, .klen),
        (0x18#8, .ctrHi), (0x1C#8, .ctrLo), (0x20#8, .digits)] →
      ∃ w, regView r s = some w ∧ memRead a s = (s, w)) ∧
    (s.ecode ≠ 0#4 → a ∉ [0x04#8, 0x08#8, 0x0C#8, 0x14#8, 0x18#8, 0x1C#8, 0x20#8] →
      memRead a s = (s, 0x00000000#32)) ∧
    (s.ecode = 0#4 →
      (a.extractLsb' 0 2 ≠ 0#2 ∨ 0x50 ≤ a.toNat ∨ a = 0x00#8 ∨ a = 0x10#8 →
        memRead a s = (enterFault .bus (a.setWidth 32) s, 0x00000000#32)) ∧
      ∀ r flag, (a, r, flag) ∈ [(0x24#8, Reg.digest0, s.dv), (0x28#8, .digest1, s.dv),
          (0x2C#8, .digest2, s.dv), (0x30#8, .digest3, s.dv), (0x34#8, .digest4, s.dv),
          (0x38#8, .offset, s.sv), (0x3C#8, .sel, s.sv), (0x40#8, .code, s.cv),
          (0x44#8, .out0, s.ov), (0x48#8, .out1, s.ov), (0x4C#8, .outLen, s.ov)] →
        (flag = true → ∃ w, regView r s = some w ∧ memRead a s = (s, w)) ∧
        (flag = false →
          memRead a s = (enterFault .rdinv (a.setWidth 32) s, 0x00000000#32)))

/-- R15, R16: the twenty offsets, and that every offset names at most one register and every register
has one offset; exactly the aligned offsets below `0x50` name one. -/
def Obligations.RegisterMapHasNoAliases : Prop :=
  (∀ a r, regAt a = some r ↔
    (a, r) ∈ [(0x00#8, Reg.cmd), (0x04#8, .status), (0x08#8, .err), (0x0C#8, .einfo),
      (0x10#8, .keyPush), (0x14#8, .klen), (0x18#8, .ctrHi), (0x1C#8, .ctrLo), (0x20#8, .digits),
      (0x24#8, .digest0), (0x28#8, .digest1), (0x2C#8, .digest2), (0x30#8, .digest3),
      (0x34#8, .digest4), (0x38#8, .offset), (0x3C#8, .sel), (0x40#8, .code), (0x44#8, .out0),
      (0x48#8, .out1), (0x4C#8, .outLen)]) ∧
  (∀ a r, regAt a = some r ↔ a = regOffset r) ∧
  (∀ r r', regOffset r = regOffset r' → r = r') ∧
  ∀ a : Offset, (∃ r, regAt a = some r) ↔ a.extractLsb' 0 2 = 0#2 ∧ a.toNat < 0x50

/-- R63: KEY_PUSH appends the low byte of the word and clears every stage; a push into a full buffer
raises KEYOVF, with an information that does not hold the data. -/
def Obligations.KeyPushAppendsOneByte : Prop :=
  ∀ s d, s.ecode = 0#4 →
    (s.klen = s.keyMax → memWrite 0x10#8 d s = .next (enterFault .keyovf 0x00000110#32 s)) ∧
    (s.klen ≠ s.keyMax → memWrite 0x10#8 d s = .next { s with
      keybuf := s.keybuf.set s.klen (d.extractLsb' 0 8), klen := s.klen + 1
      digest := Vector.replicate 20 0x00#8, dv := false
      offset := 0#4, sel := 0#31, sv := false
      code := 0#27, cv := false
      out := Vector.replicate 8 0x00#8, outlen := 0#4, ov := false })

/-- R64: CTR_HI stores the whole word in the counter's upper half and clears every stage, also when the
value is the old one. -/
def Obligations.CtrHiWritesTheUpperHalf : Prop :=
  ∀ s d, s.ecode = 0#4 → ∃ c : Counter,
    c.extractLsb' 32 32 = d ∧ c.extractLsb' 0 32 = s.ctr.extractLsb' 0 32 ∧
    memWrite 0x18#8 d s = .next { s with
      ctr := c
      digest := Vector.replicate 20 0x00#8, dv := false
      offset := 0#4, sel := 0#31, sv := false
      code := 0#27, cv := false
      out := Vector.replicate 8 0x00#8, outlen := 0#4, ov := false }

/-- R65: CTR_LO stores the whole word in the counter's lower half and clears every stage, also when the
value is the old one. -/
def Obligations.CtrLoWritesTheLowerHalf : Prop :=
  ∀ s d, s.ecode = 0#4 → ∃ c : Counter,
    c.extractLsb' 0 32 = d ∧ c.extractLsb' 32 32 = s.ctr.extractLsb' 32 32 ∧
    memWrite 0x1C#8 d s = .next { s with
      ctr := c
      digest := Vector.replicate 20 0x00#8, dv := false
      offset := 0#4, sel := 0#31, sv := false
      code := 0#27, cv := false
      out := Vector.replicate 8 0x00#8, outlen := 0#4, ov := false }

/-- R66: DIGITS stores the low 4 bits, whatever they are, and clears the code and out stages, keeping the
digest and selected stages. -/
def Obligations.DigitsWriteKeepsTheDigest : Prop :=
  ∀ s d, s.ecode = 0#4 →
    memWrite 0x20#8 d s = .next { s with
      digits := d.extractLsb' 0 4
      code := 0#27, cv := false
      out := Vector.replicate 8 0x00#8, outlen := 0#4, ov := false }

/-- R31: the fields of STATUS; bits `[31:5]` read 0; reading it changes nothing. -/
def Obligations.StatusBits : Prop :=
  ∀ s, ∃ w, memRead (regOffset .status) s = (s, w) ∧
    w.getLsbD 0 = s.dv ∧ w.getLsbD 1 = s.sv ∧ w.getLsbD 2 = s.cv ∧ w.getLsbD 3 = s.ov ∧
    (w.getLsbD 4 = true ↔ s.ecode ≠ 0#4) ∧ w.extractLsb' 5 27 = 0#27

/-- R23: DIGESTn packs four digest bytes, the lower-indexed one in the more significant position; it
equals the chaining word `H_n` of the outer hash when the digest is a hash. -/
def Obligations.DigestRegistersShowTheDigest : Prop :=
  ∀ s (n : Fin 5),
    (∀ w, regView ([Reg.digest0, .digest1, .digest2, .digest3, .digest4][n]) s = some w →
      ∀ j : Fin 4, w.extractLsb' (24 - 8 * j.val) 8 = s.digest[4 * n.val + j.val]) ∧
    ∀ m, s.digest = sha1 m →
      regView ([Reg.digest0, .digest1, .digest2, .digest3, .digest4][n]) s =
        some ((sha1Chain m).word n)

/-- R27: OUT0 and OUT1 pack four characters each, the leftmost in the most significant byte. -/
def Obligations.OutRegistersShowTheString : Prop :=
  ∀ s (n : Fin 2) w, regView ([Reg.out0, .out1][n]) s = some w →
    ∀ j : Fin 4, w.extractLsb' (24 - 8 * j.val) 8 = s.out[4 * n.val + j.val]

/-- R16, R19, R21, R22, R24 to R26, R28, R32, R33: the fields of the other readable registers; their
reserved bits read 0. The counter's two registers are its two halves. -/
def Obligations.RegisterFieldsAndReservedBits : Prop :=
  ∀ s,
    (∀ w, regView .err s = some w → w.extractLsb' 0 4 = s.ecode ∧ w.extractLsb' 4 28 = 0#28) ∧
    (∀ w, regView .einfo s = some w → w = s.einfo) ∧
    (∀ w, regView .klen s = some w → s.klen ≤ 65535 →
      (w.extractLsb' 0 16).toNat = s.klen ∧ w.extractLsb' 16 16 = 0#16) ∧
    (∀ h l, regView .ctrHi s = some h → regView .ctrLo s = some l → h ++ l = s.ctr) ∧
    (∀ w, regView .digits s = some w → w.extractLsb' 0 4 = s.digits ∧ w.extractLsb' 4 28 = 0#28) ∧
    (∀ w, regView .offset s = some w → w.extractLsb' 0 4 = s.offset ∧ w.extractLsb' 4 28 = 0#28) ∧
    (∀ w, regView .sel s = some w → w.extractLsb' 0 31 = s.sel ∧ w.getLsbD 31 = false) ∧
    (∀ w, regView .code s = some w → w.extractLsb' 0 27 = s.code ∧ w.extractLsb' 27 5 = 0#5) ∧
    (∀ w, regView .outLen s = some w → w.extractLsb' 0 4 = s.outlen ∧ w.extractLsb' 4 28 = 0#28)

/-- R157, R68: after a write to KEY_PUSH, CTR_HI or CTR_LO, or a KEYCLR, a read of any result register
faults or, if the write itself faulted, reads 0: it never shows a stale value. After a write to DIGITS so
does a read of CODE, OUT0, OUT1 or OUT_LEN. -/
def Obligations.OperandWriteMakesResultsUnreadable : Prop :=
  ∀ s t r d, s.ecode = 0#4 →
    ((memWrite 0x10#8 d s = .next t ∨ memWrite 0x18#8 d s = .next t ∨ memWrite 0x1C#8 d s = .next t ∨
        exec .keyclr s = .next t) ∧
        r ∈ [Reg.digest0, .digest1, .digest2, .digest3, .digest4, .offset, .sel, .code, .out0, .out1,
          .outLen] ∨
      memWrite 0x20#8 d s = .next t ∧ r ∈ [Reg.code, .out0, .out1, .outLen]) →
    (t.ecode = 0#4 → memRead (regOffset r) t =
        (enterFault .rdinv ((regOffset r).setWidth 32) t, 0x00000000#32)) ∧
      (t.ecode ≠ 0#4 → memRead (regOffset r) t = (t, 0x00000000#32))

/-! ### Faults -/

/-- R130, R133: fault entry records the code and the information, clears every stage, and keeps the key,
the counter and the digit count. -/
def Obligations.FaultEntryClearsTheStages : Prop :=
  (FaultCode.illcmd.code = 1#4 ∧ FaultCode.bus.code = 2#4 ∧ FaultCode.keyovf.code = 3#4 ∧
    FaultCode.keyempty.code = 4#4 ∧ FaultCode.digits.code = 5#4 ∧ FaultCode.seq.code = 6#4 ∧
    FaultCode.rdinv.code = 7#4) ∧
  ∀ f x s, raise f x s = .next { s with
      ecode := f.code, einfo := x
      digest := Vector.replicate 20 0x00#8, dv := false
      offset := 0#4, sel := 0#31, sv := false
      code := 0#27, cv := false
      out := Vector.replicate 8 0x00#8, outlen := 0#4, ov := false }

/-- R131, R134: faults are precise. When a step of a core that is not frozen leaves it frozen, the event
had no effect but fault entry: the operands are as they were, all stages are clear, a read returned 0,
and ERR and EINFO describe the fault. -/
def Obligations.FaultsArePrecise : Prop :=
  ∀ s t e q, s.pending = e :: q → s.ecode = 0#4 → step s = .next t → t.ecode ≠ 0#4 →
    (∀ a, e = .read a → t.rdata = some 0x00000000#32 ∧
      (t.ecode = FaultCode.bus.code ∨ t.ecode = FaultCode.rdinv.code) ∧ t.einfo = a.setWidth 32) ∧
    (∀ a d, e = .write a d →
      (t.ecode = FaultCode.bus.code ∧ t.einfo = 0x100#32 ||| a.setWidth 32) ∨
      (t.ecode = FaultCode.keyovf.code ∧ a = 0x10#8 ∧ t.einfo = 0x110#32) ∨
      (t.ecode ∈ [FaultCode.illcmd.code, FaultCode.keyempty.code, FaultCode.digits.code,
          FaultCode.seq.code] ∧ a = 0x00#8 ∧ t.einfo = d)) ∧
    t = { s with
        ecode := t.ecode, einfo := t.einfo
        digest := Vector.replicate 20 0x00#8, dv := false
        offset := 0#4, sel := 0#31, sv := false
        code := 0#27, cv := false
        out := Vector.replicate 8 0x00#8, outlen := 0#4, ov := false
        pending := q, rdata := t.rdata }

/-- R132: which event can raise which fault. An event or a command not listed raises none, and nothing
does while the core is frozen. -/
def Obligations.FaultsRaisedByEachEvent : Prop :=
  (∀ s t e q, s.pending = e :: q → s.ecode ≠ 0#4 → step s = .next t →
    t.ecode = 0#4 ∨ (t.ecode = s.ecode ∧ t.einfo = s.einfo)) ∧
  ∀ s t e q, s.pending = e :: q → s.ecode = 0#4 → step s = .next t → t.ecode ≠ 0#4 →
    (∃ a, e = .read a ∧
      ((t.ecode = FaultCode.bus.code ∧
          (a.extractLsb' 0 2 ≠ 0#2 ∨ 0x50 ≤ a.toNat ∨ a = 0x00#8 ∨ a = 0x10#8)) ∨
        (t.ecode = FaultCode.rdinv.code ∧
          a ∈ [0x24#8, 0x28#8, 0x2C#8, 0x30#8, 0x34#8, 0x38#8, 0x3C#8, 0x40#8, 0x44#8, 0x48#8,
            0x4C#8]))) ∨
    (∃ a d, e = .write a d ∧
      ((t.ecode = FaultCode.bus.code ∧
          (a.extractLsb' 0 2 ≠ 0#2 ∨ 0x50 ≤ a.toNat ∨
            a ∈ [0x04#8, 0x08#8, 0x0C#8, 0x14#8, 0x24#8, 0x28#8, 0x2C#8, 0x30#8, 0x34#8, 0x38#8,
              0x3C#8, 0x40#8, 0x44#8, 0x48#8, 0x4C#8])) ∨
        (t.ecode = FaultCode.keyovf.code ∧ a = 0x10#8) ∨
        (t.ecode = FaultCode.illcmd.code ∧ a = 0x00#8 ∧ ∃ u, decode d = .error u) ∨
        (t.ecode = FaultCode.keyempty.code ∧ a = 0x00#8 ∧
          (d = encode .hmac ∨ d = encode .hotp)) ∨
        (t.ecode = FaultCode.seq.code ∧ a = 0x00#8 ∧
          (d = encode .trunc ∨ d = encode .modr ∨ d = encode .fmt)) ∨
        (t.ecode = FaultCode.digits.code ∧ a = 0x00#8 ∧
          (d = encode .modr ∨ d = encode .hotp))))

/-- R136, R137, R138: a frozen core is left only by CLR or a hardware reset, which put every field at its
reset value; every other event changes no field but what a read returned, so the first fault is kept. -/
def Obligations.FrozenLeftOnlyByClrOrReset : Prop :=
  ∀ s t e q, s.pending = e :: q → s.ecode ≠ 0#4 → step s = .next t →
    (e = .reset ∨ e = .write 0x00#8 0x00000001#32 →
      ∃ r, t = { State.resetTo s.keyMax with pending := q, rdata := r }) ∧
    (e ≠ .reset → e ≠ .write 0x00#8 0x00000001#32 →
      ∃ r, t = { s with pending := q, rdata := r })

/-- R18, R21, R22, R145: nothing but a host's write changes an operand. The counter changes only by a
write to CTR_HI or CTR_LO, the digit count by one to DIGITS, the key by one to KEY_PUSH or by KEYCLR; and
each by CLR and the hardware reset. -/
def Obligations.OperandsChangeOnlyByHostWrites : Prop :=
  ∀ s t e q, s.pending = e :: q → step s = .next t → e ≠ .reset →
    e ≠ .write 0x00#8 0x00000001#32 →
    ((∀ d, e ≠ .write 0x18#8 d ∧ e ≠ .write 0x1C#8 d) → t.ctr = s.ctr) ∧
    ((∀ d, e ≠ .write 0x20#8 d) → t.digits = s.digits) ∧
    ((∀ d, e ≠ .write 0x10#8 d) → e ≠ .write 0x00#8 0x00000002#32 →
      t.keybuf = s.keybuf ∧ t.klen = s.klen)

/-- R131, R144: of two states that differ only in the key's bytes and in what was computed from them, a
step on the same event leaves two such states: neither the fault registers nor the flags, the key length
or the operands show a key byte, and a read that is not of a valid result register returns the same. -/
def Obligations.KeyBytesShowOnlyInResults : Prop :=
  ∀ s t s' t' e q, SameButKeyBytes s t → s.pending = e :: q → step s = .next s' → step t = .next t' →
    SameButKeyBytes s' t' ∧
    ((∀ r st, regStage r = some st → s.valid st = true → e ≠ .read (regOffset r)) →
      s'.rdata = t'.rdata)

/-! ### What the results are -/

/-- R140: in a state that meets the invariant, a read of CODE, OUT0, OUT1 or OUT_LEN that does not leave
the core frozen returns the value computed from the operands held at the time of the read. -/
def Obligations.ReadCodeIsTheOperandsCode : Prop :=
  ∀ s, CoreInv s → s.ecode = 0#4 →
    let p := (select (hmacSha1 (s.keybuf.take s.klen) (be8 s.ctr))).2
    let c := p.toNat % 10 ^ s.digits.toNat
    let o := fmt c s.digits.toNat
    (∀ t w, memRead (regOffset .code) s = (t, w) → t.ecode = 0#4 → t = s ∧ w.toNat = c) ∧
    (∀ t w, memRead (regOffset .out0) s = (t, w) → t.ecode = 0#4 →
      t = s ∧ w = be32 o[0] o[1] o[2] o[3]) ∧
    (∀ t w, memRead (regOffset .out1) s = (t, w) → t.ecode = 0#4 →
      t = s ∧ w = be32 o[4] o[5] o[6] o[7]) ∧
    (∀ t w, memRead (regOffset .outLen) s = (t, w) → t.ecode = 0#4 →
      t = s ∧ w.toNat = s.digits.toNat)

/-- R45: with a valid out stage, every result is a function of the key, the counter and the digit count
alone, whatever the two histories. -/
def Obligations.ResultsDependOnOperandsAlone : Prop :=
  ∀ s t, CoreInv s → CoreInv t → s.ov = true → t.ov = true →
    s.keybuf.take s.klen = t.keybuf.take t.klen → s.ctr = t.ctr → s.digits = t.digits →
    s.digest = t.digest ∧ s.offset = t.offset ∧ s.sel = t.sel ∧ s.code = t.code ∧
      s.out = t.out ∧ s.outlen = t.outlen

/-! ### The units -/

/-- R89: the message is the counter's eight bytes, the most significant first. -/
def Obligations.CounterTextIsBigEndian : Prop :=
  ∀ c : Counter, (be8 c).length = 8 ∧
    (∀ i, i < 8 → (be8 c)[i]? = some (c.extractLsb' (56 - 8 * i) 8)) ∧
    (be8 c).foldl (fun acc b => 256 * acc + b.toNat) 0 = c.toNat

/-- R91: the padding of a message of `L < 2^61` bytes. -/
def Obligations.PaddingShape : Prop :=
  ∀ m : List Byte, m.length < 2 ^ 61 → ∃ z,
    sha1Pad m =
      m ++ [0x80#8] ++ List.replicate z 0x00#8 ++ be8 (BitVec.ofNat 64 (8 * m.length)) ∧
    (m.length + 1 + z) % 64 = 56 ∧
    (∀ z', (m.length + 1 + z') % 64 = 56 → z ≤ z') ∧
    (sha1Pad m).length = 64 * ((m.length + 8) / 64 + 1)

/-- R94: the message schedule of a block's 16 words. -/
def Obligations.ScheduleRecurrence : Prop :=
  ∀ m : List Word, m.length = 16 →
    (schedule m).length = 80 ∧
    (∀ t, t < 16 → (schedule m)[t]? = m[t]?) ∧
    ∀ t, 16 ≤ t → t < 80 → (schedule m).getD t 0 =
      rotl 1 ((schedule m).getD (t - 3) 0 ^^^ (schedule m).getD (t - 8) 0 ^^^
        (schedule m).getD (t - 14) 0 ^^^ (schedule m).getD (t - 16) 0)

/-- R96: the rounds run in order, `t` = 0 to 79, each on the schedule word of its number. -/
def Obligations.RoundsRunInOrder : Prop :=
  ∀ (ws : List Word) (w : Word) (v : Chain),
    sha1Rounds 0 (ws ++ [w]) v = sha1Round ws.length w (sha1Rounds 0 ws v)

/-- R95, R96, with R92's words of a block and R94's schedule: the compression of a 64-byte block, with
nothing of the model's own units in it: the schedule words `w`, the variables `v t` before round `t`. -/
def Obligations.CompressionRunsTheEightyRounds : Prop :=
  ∀ (h : Chain) (b : List Byte), b.length = 64 → ∃ (w : Nat → Word) (v : Nat → Chain),
    (∀ t, t < 16 → w t =
      b.getD (4 * t) 0 ++ b.getD (4 * t + 1) 0 ++ b.getD (4 * t + 2) 0 ++ b.getD (4 * t + 3) 0) ∧
    (∀ t, 16 ≤ t → t < 80 →
      w t = (w (t - 3) ^^^ w (t - 8) ^^^ w (t - 14) ^^^ w (t - 16)).rotateLeft 1) ∧
    v 0 = h ∧
    (∀ t, t < 80 → ∃ f k : Word,
      (t ≤ 19 → f = ((v t).b &&& (v t).c) ||| (~~~(v t).b &&& (v t).d) ∧ k = 0x5A827999#32) ∧
      (20 ≤ t → t ≤ 39 → f = (v t).b ^^^ (v t).c ^^^ (v t).d ∧ k = 0x6ED9EBA1#32) ∧
      (40 ≤ t → t ≤ 59 →
        f = ((v t).b &&& (v t).c) ||| ((v t).b &&& (v t).d) ||| ((v t).c &&& (v t).d) ∧
          k = 0x8F1BBCDC#32) ∧
      (60 ≤ t → f = (v t).b ^^^ (v t).c ^^^ (v t).d ∧ k = 0xCA62C1D6#32) ∧
      v (t + 1) = ⟨(v t).a.rotateLeft 5 + f + (v t).e + k + w t, (v t).a, (v t).b.rotateLeft 30,
        (v t).c, (v t).d⟩) ∧
    compress h b =
      ⟨h.a + (v 80).a, h.b + (v 80).b, h.c + (v 80).c, h.d + (v 80).d, h.e + (v 80).e⟩

/-- R93, R97, with R92's blocks: the hash is the compressions of the padded message's blocks, in order,
from the initial value written out, and its bytes are those of the last five words. -/
def Obligations.HashChainsTheBlocks : Prop :=
  ∀ m : List Byte, m.length < 2 ^ 61 → ∃ (n : Nat) (c : Nat → Chain),
    (sha1Pad m).length = 64 * n ∧
    c 0 = ⟨0x67452301#32, 0xEFCDAB89#32, 0x98BADCFE#32, 0x10325476#32, 0xC3D2E1F0#32⟩ ∧
    (∀ i, i < n → c (i + 1) = compress (c i) (((sha1Pad m).drop (64 * i)).take 64)) ∧
    ∀ (k : Fin 5) (j : Fin 4), (sha1 m)[4 * k.val + j.val] =
      ([(c n).a, (c n).b, (c n).c, (c n).d, (c n).e][k]).extractLsb' (24 - 8 * j.val) 8

/-- R103: for a key of at most 64 bytes and a message of 8 bytes, HMAC is four compressions of the blocks
written out. -/
def Obligations.HmacIsFourCompressions : Prop :=
  ∀ k x : List Byte, k.length ≤ 64 → x.length = 8 →
    ∃ k₀ : List Byte, k₀ = k ++ List.replicate (64 - k.length) 0x00#8 ∧ k₀.length = 64 ∧
    ∃ inner : List Byte,
      inner = (compress (compress sha1Init (k₀.map (· ^^^ 0x36#8)))
        (x ++ [0x80#8] ++ List.replicate 47 0x00#8 ++
          [0x00#8, 0x00#8, 0x00#8, 0x00#8, 0x00#8, 0x00#8, 0x02#8, 0x40#8])).bytes.toList ∧
      hmacSha1 k x = (compress (compress sha1Init (k₀.map (· ^^^ 0x5C#8)))
        (inner ++ [0x80#8] ++ List.replicate 35 0x00#8 ++
          [0x00#8, 0x00#8, 0x00#8, 0x00#8, 0x00#8, 0x00#8, 0x02#8, 0xA0#8])).bytes

/-- R106 (b), (c), (d): a key of 64 bytes is used as it is; a longer key and the 20-byte key equal to its
SHA-1 value give the same digest; so do keys of at most 64 bytes that differ only in trailing zeros. -/
def Obligations.EquivalentKeysGiveEqualDigests : Prop :=
  (∀ k : List Byte, k.length = 64 → keyBlock k = k) ∧
  (∀ k x : List Byte, 64 < k.length → hmacSha1 k x = hmacSha1 (sha1 k).toList x) ∧
  ∀ (k x : List Byte) (n : Nat), k.length + n ≤ 64 →
    hmacSha1 (k ++ List.replicate n 0x00#8) x = hmacSha1 k x

/-- R109 to R112: the offset and the selected value as the sum of four digest bytes. -/
def Obligations.SelectIsTheMaskedBigEndianValue : Prop :=
  ∀ d : Vector Byte 20, ∃ o, o = d[19].toNat % 16 ∧ o + 3 ≤ 18 ∧
    (select d).1.toNat = o ∧
    (select d).2.toNat =
      (d.toList.getD o 0).toNat % 128 * 2 ^ 24 + (d.toList.getD (o + 1) 0).toNat * 2 ^ 16 +
        (d.toList.getD (o + 2) 0).toNat * 2 ^ 8 + (d.toList.getD (o + 3) 0).toNat

/-- R114, R116: the modulus is `10^min(d, 8)`; the remainder lies below it and keeps the low decimal
digits of the value. -/
def Obligations.ReductionKeepsTheLowDigits : Prop :=
  ∀ p d, modulus d = 10 ^ min d 8 ∧ modRed p d = p % 10 ^ min d 8 ∧ modRed p d < modulus d ∧
    ∀ i, i < min d 8 → modRed p d / 10 ^ i % 10 = p / 10 ^ i % 10

/-- R119 to R121, R123: the formatted string: decimal digit characters whose decimal value is the code,
then fill. -/
def Obligations.FormattedStringDenotesTheCode : Prop :=
  ∀ c n, 1 ≤ n → n ≤ 8 → c < 10 ^ n →
    (∀ i : Fin 8, i.val < n →
      (fmt c n)[i].toNat = 0x30 + c / 10 ^ (n - 1 - i.val) % 10 ∧
      0x30 ≤ (fmt c n)[i].toNat ∧ (fmt c n)[i].toNat ≤ 0x39) ∧
    (∀ i : Fin 8, n ≤ i.val → (fmt c n)[i] = 0x00#8) ∧
    ((fmt c n).toList.take n).foldl (fun acc b => 10 * acc + (b.toNat - 0x30)) 0 = c
end

