-- ==== Sys2Proof/Laws/State.lean ====
section
/-! SUPPORT. One lemma per field per named update of the state (stage clearing, fault entry, the reset of
every field, the acceptance of an event), each true by rfl, so that no later proof unfolds one. -/

namespace Sys2Proof.Machine

/-! ### Stage clearing (R35) -/

@[simp] theorem clearDigest_keyMax (s : State) : (clearDigest s).keyMax = s.keyMax := rfl
@[simp] theorem clearDigest_keybuf (s : State) : (clearDigest s).keybuf = s.keybuf := rfl
@[simp] theorem clearDigest_klen (s : State) : (clearDigest s).klen = s.klen := rfl
@[simp] theorem clearDigest_ctr (s : State) : (clearDigest s).ctr = s.ctr := rfl
@[simp] theorem clearDigest_digits (s : State) : (clearDigest s).digits = s.digits := rfl
@[simp] theorem clearDigest_digest (s : State) : (clearDigest s).digest = Vector.replicate 20 0x00#8 := rfl
@[simp] theorem clearDigest_offset (s : State) : (clearDigest s).offset = s.offset := rfl
@[simp] theorem clearDigest_sel (s : State) : (clearDigest s).sel = s.sel := rfl
@[simp] theorem clearDigest_code (s : State) : (clearDigest s).code = s.code := rfl
@[simp] theorem clearDigest_out (s : State) : (clearDigest s).out = s.out := rfl
@[simp] theorem clearDigest_outlen (s : State) : (clearDigest s).outlen = s.outlen := rfl
@[simp] theorem clearDigest_dv (s : State) : (clearDigest s).dv = false := rfl
@[simp] theorem clearDigest_sv (s : State) : (clearDigest s).sv = s.sv := rfl
@[simp] theorem clearDigest_cv (s : State) : (clearDigest s).cv = s.cv := rfl
@[simp] theorem clearDigest_ov (s : State) : (clearDigest s).ov = s.ov := rfl
@[simp] theorem clearDigest_ecode (s : State) : (clearDigest s).ecode = s.ecode := rfl
@[simp] theorem clearDigest_einfo (s : State) : (clearDigest s).einfo = s.einfo := rfl
@[simp] theorem clearDigest_pending (s : State) : (clearDigest s).pending = s.pending := rfl
@[simp] theorem clearDigest_rdata (s : State) : (clearDigest s).rdata = s.rdata := rfl

@[simp] theorem clearSelected_keyMax (s : State) : (clearSelected s).keyMax = s.keyMax := rfl
@[simp] theorem clearSelected_keybuf (s : State) : (clearSelected s).keybuf = s.keybuf := rfl
@[simp] theorem clearSelected_klen (s : State) : (clearSelected s).klen = s.klen := rfl
@[simp] theorem clearSelected_ctr (s : State) : (clearSelected s).ctr = s.ctr := rfl
@[simp] theorem clearSelected_digits (s : State) : (clearSelected s).digits = s.digits := rfl
@[simp] theorem clearSelected_digest (s : State) : (clearSelected s).digest = s.digest := rfl
@[simp] theorem clearSelected_offset (s : State) : (clearSelected s).offset = 0#4 := rfl
@[simp] theorem clearSelected_sel (s : State) : (clearSelected s).sel = 0#31 := rfl
@[simp] theorem clearSelected_code (s : State) : (clearSelected s).code = s.code := rfl
@[simp] theorem clearSelected_out (s : State) : (clearSelected s).out = s.out := rfl
@[simp] theorem clearSelected_outlen (s : State) : (clearSelected s).outlen = s.outlen := rfl
@[simp] theorem clearSelected_dv (s : State) : (clearSelected s).dv = s.dv := rfl
@[simp] theorem clearSelected_sv (s : State) : (clearSelected s).sv = false := rfl
@[simp] theorem clearSelected_cv (s : State) : (clearSelected s).cv = s.cv := rfl
@[simp] theorem clearSelected_ov (s : State) : (clearSelected s).ov = s.ov := rfl
@[simp] theorem clearSelected_ecode (s : State) : (clearSelected s).ecode = s.ecode := rfl
@[simp] theorem clearSelected_einfo (s : State) : (clearSelected s).einfo = s.einfo := rfl
@[simp] theorem clearSelected_pending (s : State) : (clearSelected s).pending = s.pending := rfl
@[simp] theorem clearSelected_rdata (s : State) : (clearSelected s).rdata = s.rdata := rfl

@[simp] theorem clearCode_keyMax (s : State) : (clearCode s).keyMax = s.keyMax := rfl
@[simp] theorem clearCode_keybuf (s : State) : (clearCode s).keybuf = s.keybuf := rfl
@[simp] theorem clearCode_klen (s : State) : (clearCode s).klen = s.klen := rfl
@[simp] theorem clearCode_ctr (s : State) : (clearCode s).ctr = s.ctr := rfl
@[simp] theorem clearCode_digits (s : State) : (clearCode s).digits = s.digits := rfl
@[simp] theorem clearCode_digest (s : State) : (clearCode s).digest = s.digest := rfl
@[simp] theorem clearCode_offset (s : State) : (clearCode s).offset = s.offset := rfl
@[simp] theorem clearCode_sel (s : State) : (clearCode s).sel = s.sel := rfl
@[simp] theorem clearCode_code (s : State) : (clearCode s).code = 0#27 := rfl
@[simp] theorem clearCode_out (s : State) : (clearCode s).out = s.out := rfl
@[simp] theorem clearCode_outlen (s : State) : (clearCode s).outlen = s.outlen := rfl
@[simp] theorem clearCode_dv (s : State) : (clearCode s).dv = s.dv := rfl
@[simp] theorem clearCode_sv (s : State) : (clearCode s).sv = s.sv := rfl
@[simp] theorem clearCode_cv (s : State) : (clearCode s).cv = false := rfl
@[simp] theorem clearCode_ov (s : State) : (clearCode s).ov = s.ov := rfl
@[simp] theorem clearCode_ecode (s : State) : (clearCode s).ecode = s.ecode := rfl
@[simp] theorem clearCode_einfo (s : State) : (clearCode s).einfo = s.einfo := rfl
@[simp] theorem clearCode_pending (s : State) : (clearCode s).pending = s.pending := rfl
@[simp] theorem clearCode_rdata (s : State) : (clearCode s).rdata = s.rdata := rfl

@[simp] theorem clearOut_keyMax (s : State) : (clearOut s).keyMax = s.keyMax := rfl
@[simp] theorem clearOut_keybuf (s : State) : (clearOut s).keybuf = s.keybuf := rfl
@[simp] theorem clearOut_klen (s : State) : (clearOut s).klen = s.klen := rfl
@[simp] theorem clearOut_ctr (s : State) : (clearOut s).ctr = s.ctr := rfl
@[simp] theorem clearOut_digits (s : State) : (clearOut s).digits = s.digits := rfl
@[simp] theorem clearOut_digest (s : State) : (clearOut s).digest = s.digest := rfl
@[simp] theorem clearOut_offset (s : State) : (clearOut s).offset = s.offset := rfl
@[simp] theorem clearOut_sel (s : State) : (clearOut s).sel = s.sel := rfl
@[simp] theorem clearOut_code (s : State) : (clearOut s).code = s.code := rfl
@[simp] theorem clearOut_out (s : State) : (clearOut s).out = Vector.replicate 8 0x00#8 := rfl
@[simp] theorem clearOut_outlen (s : State) : (clearOut s).outlen = 0#4 := rfl
@[simp] theorem clearOut_dv (s : State) : (clearOut s).dv = s.dv := rfl
@[simp] theorem clearOut_sv (s : State) : (clearOut s).sv = s.sv := rfl
@[simp] theorem clearOut_cv (s : State) : (clearOut s).cv = s.cv := rfl
@[simp] theorem clearOut_ov (s : State) : (clearOut s).ov = false := rfl
@[simp] theorem clearOut_ecode (s : State) : (clearOut s).ecode = s.ecode := rfl
@[simp] theorem clearOut_einfo (s : State) : (clearOut s).einfo = s.einfo := rfl
@[simp] theorem clearOut_pending (s : State) : (clearOut s).pending = s.pending := rfl
@[simp] theorem clearOut_rdata (s : State) : (clearOut s).rdata = s.rdata := rfl

@[simp] theorem invalidate_digest (s : State) :
    invalidate .digest s = clearOut (clearCode (clearSelected (clearDigest s))) := rfl
@[simp] theorem invalidate_selected (s : State) :
    invalidate .selected s = clearOut (clearCode (clearSelected s)) := rfl
@[simp] theorem invalidate_code (s : State) : invalidate .code s = clearOut (clearCode s) := rfl
@[simp] theorem invalidate_out (s : State) : invalidate .out s = clearOut s := rfl

/-! ### Fault entry (R133) -/

@[simp] theorem enterFault_keyMax (f : FaultCode) (x : Word) (s : State) : (enterFault f x s).keyMax = s.keyMax := rfl
@[simp] theorem enterFault_keybuf (f : FaultCode) (x : Word) (s : State) : (enterFault f x s).keybuf = s.keybuf := rfl
@[simp] theorem enterFault_klen (f : FaultCode) (x : Word) (s : State) : (enterFault f x s).klen = s.klen := rfl
@[simp] theorem enterFault_ctr (f : FaultCode) (x : Word) (s : State) : (enterFault f x s).ctr = s.ctr := rfl
@[simp] theorem enterFault_digits (f : FaultCode) (x : Word) (s : State) : (enterFault f x s).digits = s.digits := rfl
@[simp] theorem enterFault_digest (f : FaultCode) (x : Word) (s : State) : (enterFault f x s).digest = Vector.replicate 20 0x00#8 := rfl
@[simp] theorem enterFault_offset (f : FaultCode) (x : Word) (s : State) : (enterFault f x s).offset = 0#4 := rfl
@[simp] theorem enterFault_sel (f : FaultCode) (x : Word) (s : State) : (enterFault f x s).sel = 0#31 := rfl
@[simp] theorem enterFault_code (f : FaultCode) (x : Word) (s : State) : (enterFault f x s).code = 0#27 := rfl
@[simp] theorem enterFault_out (f : FaultCode) (x : Word) (s : State) : (enterFault f x s).out = Vector.replicate 8 0x00#8 := rfl
@[simp] theorem enterFault_outlen (f : FaultCode) (x : Word) (s : State) : (enterFault f x s).outlen = 0#4 := rfl
@[simp] theorem enterFault_dv (f : FaultCode) (x : Word) (s : State) : (enterFault f x s).dv = false := rfl
@[simp] theorem enterFault_sv (f : FaultCode) (x : Word) (s : State) : (enterFault f x s).sv = false := rfl
@[simp] theorem enterFault_cv (f : FaultCode) (x : Word) (s : State) : (enterFault f x s).cv = false := rfl
@[simp] theorem enterFault_ov (f : FaultCode) (x : Word) (s : State) : (enterFault f x s).ov = false := rfl
@[simp] theorem enterFault_ecode (f : FaultCode) (x : Word) (s : State) : (enterFault f x s).ecode = f.code := rfl
@[simp] theorem enterFault_einfo (f : FaultCode) (x : Word) (s : State) : (enterFault f x s).einfo = x := rfl
@[simp] theorem enterFault_pending (f : FaultCode) (x : Word) (s : State) : (enterFault f x s).pending = s.pending := rfl
@[simp] theorem enterFault_rdata (f : FaultCode) (x : Word) (s : State) : (enterFault f x s).rdata = s.rdata := rfl

/-! ### The reset of every field (R37) -/

@[simp] theorem resetFields_keyMax (s : State) : (resetFields s).keyMax = s.keyMax := rfl
@[simp] theorem resetFields_keybuf (s : State) : (resetFields s).keybuf = List.replicate s.keyMax 0x00#8 := rfl
@[simp] theorem resetFields_klen (s : State) : (resetFields s).klen = 0 := rfl
@[simp] theorem resetFields_ctr (s : State) : (resetFields s).ctr = 0#64 := rfl
@[simp] theorem resetFields_digits (s : State) : (resetFields s).digits = 0#4 := rfl
@[simp] theorem resetFields_digest (s : State) : (resetFields s).digest = Vector.replicate 20 0x00#8 := rfl
@[simp] theorem resetFields_offset (s : State) : (resetFields s).offset = 0#4 := rfl
@[simp] theorem resetFields_sel (s : State) : (resetFields s).sel = 0#31 := rfl
@[simp] theorem resetFields_code (s : State) : (resetFields s).code = 0#27 := rfl
@[simp] theorem resetFields_out (s : State) : (resetFields s).out = Vector.replicate 8 0x00#8 := rfl
@[simp] theorem resetFields_outlen (s : State) : (resetFields s).outlen = 0#4 := rfl
@[simp] theorem resetFields_dv (s : State) : (resetFields s).dv = false := rfl
@[simp] theorem resetFields_sv (s : State) : (resetFields s).sv = false := rfl
@[simp] theorem resetFields_cv (s : State) : (resetFields s).cv = false := rfl
@[simp] theorem resetFields_ov (s : State) : (resetFields s).ov = false := rfl
@[simp] theorem resetFields_ecode (s : State) : (resetFields s).ecode = 0#4 := rfl
@[simp] theorem resetFields_einfo (s : State) : (resetFields s).einfo = 0#32 := rfl
@[simp] theorem resetFields_pending (s : State) : (resetFields s).pending = s.pending := rfl
@[simp] theorem resetFields_rdata (s : State) : (resetFields s).rdata = s.rdata := rfl

/-! ### The acceptance of an event (R48) -/

@[simp] theorem accept_keyMax (rest : List Event) (s : State) : (accept rest s).keyMax = s.keyMax := rfl
@[simp] theorem accept_keybuf (rest : List Event) (s : State) : (accept rest s).keybuf = s.keybuf := rfl
@[simp] theorem accept_klen (rest : List Event) (s : State) : (accept rest s).klen = s.klen := rfl
@[simp] theorem accept_ctr (rest : List Event) (s : State) : (accept rest s).ctr = s.ctr := rfl
@[simp] theorem accept_digits (rest : List Event) (s : State) : (accept rest s).digits = s.digits := rfl
@[simp] theorem accept_digest (rest : List Event) (s : State) : (accept rest s).digest = s.digest := rfl
@[simp] theorem accept_offset (rest : List Event) (s : State) : (accept rest s).offset = s.offset := rfl
@[simp] theorem accept_sel (rest : List Event) (s : State) : (accept rest s).sel = s.sel := rfl
@[simp] theorem accept_code (rest : List Event) (s : State) : (accept rest s).code = s.code := rfl
@[simp] theorem accept_out (rest : List Event) (s : State) : (accept rest s).out = s.out := rfl
@[simp] theorem accept_outlen (rest : List Event) (s : State) : (accept rest s).outlen = s.outlen := rfl
@[simp] theorem accept_dv (rest : List Event) (s : State) : (accept rest s).dv = s.dv := rfl
@[simp] theorem accept_sv (rest : List Event) (s : State) : (accept rest s).sv = s.sv := rfl
@[simp] theorem accept_cv (rest : List Event) (s : State) : (accept rest s).cv = s.cv := rfl
@[simp] theorem accept_ov (rest : List Event) (s : State) : (accept rest s).ov = s.ov := rfl
@[simp] theorem accept_ecode (rest : List Event) (s : State) : (accept rest s).ecode = s.ecode := rfl
@[simp] theorem accept_einfo (rest : List Event) (s : State) : (accept rest s).einfo = s.einfo := rfl
@[simp] theorem accept_pending (rest : List Event) (s : State) : (accept rest s).pending = rest := rfl
@[simp] theorem accept_rdata (rest : List Event) (s : State) : (accept rest s).rdata = none := rfl

/-! ### The frozen condition (R136) -/

@[simp] theorem accept_frozen (rest : List Event) (s : State) :
    (accept rest s).frozen = s.frozen := rfl

@[simp] theorem resetFields_frozen (s : State) : (resetFields s).frozen = false := rfl

@[simp] theorem enterFault_frozen (f : FaultCode) (x : Word) (s : State) :
    (enterFault f x s).frozen = true := by cases f <;> rfl

theorem frozen_eq_true {s : State} : s.frozen = true ↔ s.ecode ≠ 0#4 := by simp [State.frozen]

theorem frozen_eq_false {s : State} : s.frozen = false ↔ s.ecode = 0#4 := by simp [State.frozen]

end Sys2Proof.Machine
end

