-- ==== Sys2Proof/Laws/Exec.lean ====
section
/-! SUPPORT. What each command can do, said once: every command answers a next state, which is its own
effect or fault entry (spec R85: it either completes all its writes, or raises one fault and writes
nothing else). -/

namespace Sys2Proof.Machine

theorem raise_eq (f : FaultCode) (x : Word) (s : State) : raise f x s = .next (enterFault f x s) := rfl

theorem execHmac_cases {s t : State} (h : execHmac s = .next t) :
    (s.klen = 0 ∧ t = enterFault .keyempty 0x00000010#32 s) ∨
    (s.klen ≠ 0 ∧ t = invalidate .selected { s with digest := hmacSha1 s.key s.text, dv := true }) := by
  unfold execHmac raise at h
  split at h <;> cases h <;> simp_all

theorem execTrunc_cases {s t : State} (h : execTrunc s = .next t) :
    (s.dv = false ∧ t = enterFault .seq 0x00000011#32 s) ∨
    (s.dv = true ∧ t = invalidate .code
      { s with offset := (select s.digest).1, sel := (select s.digest).2, sv := true }) := by
  unfold execTrunc raise at h
  split at h <;> cases h <;> simp_all

theorem execModr_cases {s t : State} (h : execModr s = .next t) :
    (s.sv = false ∧ t = enterFault .seq 0x00000012#32 s) ∨
    (s.sv = true ∧ s.digitsOk = false ∧ t = enterFault .digits 0x00000012#32 s) ∨
    (s.sv = true ∧ s.digitsOk = true ∧
      t = invalidate .out { s with code := codeOf s.sel s.digits, cv := true }) := by
  unfold execModr raise at h
  split at h
  · cases h; simp_all
  · split at h <;> cases h <;> simp_all

theorem execFmt_cases {s t : State} (h : execFmt s = .next t) :
    (s.cv = false ∧ t = enterFault .seq 0x00000013#32 s) ∨
    (s.cv = true ∧
      t = { s with out := fmt s.code.toNat s.digits.toNat, outlen := s.digits, ov := true }) := by
  unfold execFmt raise at h
  split at h <;> cases h <;> simp_all

/-- The state HOTP leaves when it raises no fault (R125). -/
def hotpResult (s : State) : State :=
  let d := hmacSha1 s.key s.text
  let c := codeOf (select d).2 s.digits
  { s with
    digest := d, dv := true
    offset := (select d).1, sel := (select d).2, sv := true
    code := c, cv := true
    out := fmt c.toNat s.digits.toNat, outlen := s.digits, ov := true }

theorem execHotp_cases {s t : State} (h : execHotp s = .next t) :
    (s.klen = 0 ∧ t = enterFault .keyempty 0x0000001F#32 s) ∨
    (s.klen ≠ 0 ∧ s.digitsOk = false ∧ t = enterFault .digits 0x0000001F#32 s) ∨
    (s.klen ≠ 0 ∧ s.digitsOk = true ∧ t = hotpResult s) := by
  unfold execHotp raise at h
  split at h
  · cases h; simp_all
  · split at h
    · cases h; simp_all
    · cases h; simp_all [hotpResult]

theorem digitsOk_iff {s : State} :
    s.digitsOk = true ↔ 1 ≤ s.digits.toNat ∧ s.digits.toNat ≤ 8 := by
  simp [State.digitsOk]

theorem digitsOk_eq_false {s : State} :
    s.digitsOk = false ↔ s.digits.toNat < 1 ∨ 8 < s.digits.toNat := by
  rw [← Bool.not_eq_true, digitsOk_iff]; omega

/-- Every command answers a next state. -/
theorem exec_total (i : Instr) (s : State) : ∃ t, exec i s = .next t := by
  cases i <;>
    simp only [exec, execNop, execClr, execKeyclr, execHmac, execTrunc, execModr, execFmt, execHotp,
      raise] <;> (repeat' split) <;> exact ⟨_, rfl⟩

/-- The parameter and the port's own fields are no command's business. -/
theorem exec_port {i : Instr} {s t : State} (h : exec i s = .next t) :
    t.keyMax = s.keyMax ∧ t.pending = s.pending ∧ t.rdata = s.rdata := by
  cases i <;>
    simp only [exec, execNop, execClr, execKeyclr, execHmac, execTrunc, execModr, execFmt, execHotp,
      raise] at h <;> (repeat' split at h) <;> cases h <;> simp

end Sys2Proof.Machine
end

