-- ==== Sys2Proof/Laws/PerInstr.lean ====
section
/-! SUPPORT. The statements made per instruction, as syntax: the host's case split names each lemma. -/

namespace Sys2Proof.Laws.FormatC

/-- The command's word has format C (spec R74): its field ZERO is 0, and its field OPC stands in the
opcode map beside the command (R76). -/
def Statement (i : Instr) : Prop :=
  zeroField (encode i) = 0#24 ∧ (opcField (encode i), i) ∈ opcodeMap

theorem nop : Statement .nop := by unfold Statement; decide

theorem clr : Statement .clr := by unfold Statement; decide

theorem keyclr : Statement .keyclr := by unfold Statement; decide

theorem hmac : Statement .hmac := by unfold Statement; decide

theorem trunc : Statement .trunc := by unfold Statement; decide

theorem modr : Statement .modr := by unfold Statement; decide

theorem fmt : Statement .fmt := by unfold Statement; decide

theorem hotp : Statement .hotp := by unfold Statement; decide

end Sys2Proof.Laws.FormatC
end

