-- ==== Sys2Proof/Laws/Regs.lean ====
section
/-! SUPPORT. The register map (spec R15, R16): an offset names the register whose offset it is, and no
other; an offset that names a register is aligned and mapped. -/

namespace Sys2Proof.Machine

@[simp] theorem regAt_regOffset (r : Reg) : regAt (regOffset r) = some r := by
  cases r <;> decide

theorem mem_regList (r : Reg) : r ∈ regList := by cases r <;> decide

theorem regOffset_of_regAt {a : Offset} {r : Reg} (h : regAt a = some r) : a = regOffset r := by
  have := List.find?_some h
  simpa using (eq_of_beq this).symm

theorem regAt_eq_some {a : Offset} {r : Reg} : regAt a = some r ↔ a = regOffset r :=
  ⟨regOffset_of_regAt, fun h => h ▸ regAt_regOffset r⟩

@[simp] theorem misaligned_regOffset (r : Reg) : misaligned (regOffset r) = false := by
  cases r <;> decide

@[simp] theorem unmapped_regOffset (r : Reg) : unmapped (regOffset r) = false := by
  cases r <;> decide

/-- A register without a view is write-only. -/
theorem regView_isNone (r : Reg) (s : State) : regView r s = none ↔ regAccess r = .wo := by
  cases r <;> simp [regView, regAccess]

end Sys2Proof.Machine
end

