-- ==== Sys2Proof/Laws/Port.lean ====
section
/-! SUPPORT. What the port can do, said once: one inversion lemma for a write, one for a read, one for a
step. Provers cite these and unfold nothing. -/

namespace Sys2Proof.Machine

/-- A write the address map does not allow (spec R58 lines 2 to 4). -/
def BadWrite (a : Offset) : Prop :=
  misaligned a = true ∨ unmapped a = true ∨ regAt a = none ∨ ∃ r, regAccess r = .ro ∧ a = regOffset r

/-- A read the address map does not allow (spec R59 lines 2 to 4). -/
def BadRead (a : Offset) : Prop :=
  misaligned a = true ∨ unmapped a = true ∨ regAt a = none ∨ ∃ r, regAccess r = .wo ∧ a = regOffset r

theorem execWord_cases {d : Word} {s t : State} (h : execWord d s = .next t) :
    (∃ i, decode d = .ok i ∧ exec i s = .next t) ∨
    (∃ u, decode d = .error u ∧ t = enterFault .illcmd d s) := by
  unfold execWord at h
  split at h
  · next i hi => exact .inl ⟨i, hi, h⟩
  · next u hu => exact .inr ⟨u, hu, by cases h; rfl⟩

theorem pushKey_cases {d : Word} {s t : State} (h : pushKey d s = .next t) :
    (s.klen = s.keyMax ∧ t = enterFault .keyovf 0x00000110#32 s) ∨
    (s.klen ≠ s.keyMax ∧ t = invalidate .digest
      { s with keybuf := s.keybuf.set s.klen (d.extractLsb' 0 8), klen := s.klen + 1 }) := by
  unfold pushKey raise at h
  split at h <;> cases h <;> simp_all

/-- A write to a register, not frozen (R58 lines 4 to 9). -/
theorem regWrite_cases {r : Reg} {a : Offset} {d : Word} {s t : State}
    (h : regWrite r a d s = .next t) :
    (regAccess r = .ro ∧ t = enterFault .bus (busWriteInfo a) s) ∨
    (r = .cmd ∧ execWord d s = .next t) ∨
    (r = .keyPush ∧ pushKey d s = .next t) ∨
    (r = .ctrHi ∧ t = writeCtrHi d s) ∨
    (r = .ctrLo ∧ t = writeCtrLo d s) ∨
    (r = .digits ∧ t = writeDigits d s) := by
  cases r <;> simp_all [regWrite, regAccess, raise, eq_comm]

/-- A write to a register of a core that is not frozen reaches that register (R58). -/
theorem memWrite_regOffset {s : State} (h : s.frozen = false) (r : Reg) (d : Word) :
    memWrite (regOffset r) d s = regWrite r (regOffset r) d s := by
  simp [memWrite, h]

/-- A read of a register of a core that is not frozen reaches that register (R59). -/
theorem memRead_regOffset {s : State} (h : s.frozen = false) (r : Reg) :
    memRead (regOffset r) s = regRead r (regOffset r) s := by
  simp [memRead, h]

/-- A write while frozen (R60). -/
theorem memWrite_frozen {s : State} (h : s.frozen = true) (a : Offset) (d : Word) :
    memWrite a d s =
      if a = 0x00#8 ∧ d = 0x00000001#32 then .next (resetFields s) else .next s := by
  simp [memWrite, h, exec, execClr]

/-- A read while frozen (R61). -/
theorem memRead_frozen {s : State} (h : s.frozen = true) (a : Offset) :
    memRead a s = (s, frozenRead a s) := by
  simp [memRead, h]

/-- Everything a write can do (R58). -/
theorem memWrite_cases {a : Offset} {d : Word} {s t : State} (h : memWrite a d s = .next t) :
    (s.frozen = true ∧ a = 0x00#8 ∧ d = 0x00000001#32 ∧ t = resetFields s) ∨
    (s.frozen = true ∧ ¬(a = 0x00#8 ∧ d = 0x00000001#32) ∧ t = s) ∨
    (s.frozen = false ∧ BadWrite a ∧ t = enterFault .bus (busWriteInfo a) s) ∨
    (s.frozen = false ∧ a = 0x00#8 ∧ execWord d s = .next t) ∨
    (s.frozen = false ∧ a = 0x10#8 ∧ pushKey d s = .next t) ∨
    (s.frozen = false ∧ a = 0x18#8 ∧ t = writeCtrHi d s) ∨
    (s.frozen = false ∧ a = 0x1C#8 ∧ t = writeCtrLo d s) ∨
    (s.frozen = false ∧ a = 0x20#8 ∧ t = writeDigits d s) := by
  unfold memWrite raise at h
  split at h
  · next hf =>
    split at h
    · next hc => exact .inl ⟨hf, hc.1, hc.2, by cases h; rfl⟩
    · next hc => exact .inr (.inl ⟨hf, hc, by cases h; rfl⟩)
  · next hf =>
    have hf : s.frozen = false := by simpa using hf
    split at h
    · next hm => exact .inr (.inr (.inl ⟨hf, .inl hm, by cases h; rfl⟩))
    · split at h
      · next hu => exact .inr (.inr (.inl ⟨hf, .inr (.inl hu), by cases h; rfl⟩))
      · split at h
        · next r hr =>
          have ha := regOffset_of_regAt hr
          rcases regWrite_cases h with ⟨hro, ht⟩ | ⟨rfl, h⟩ | ⟨rfl, h⟩ | ⟨rfl, h⟩ | ⟨rfl, h⟩ | ⟨rfl, h⟩
          · exact .inr (.inr (.inl ⟨hf, .inr (.inr (.inr ⟨r, hro, ha⟩)), ht⟩))
          all_goals simp_all [regOffset]
        · next hn => exact .inr (.inr (.inl ⟨hf, .inr (.inr (.inl hn)), by cases h; rfl⟩))

/-- Every write answers a next state. -/
theorem memWrite_total (a : Offset) (d : Word) (s : State) : ∃ t, memWrite a d s = .next t := by
  unfold memWrite
  split
  · split
    · exact exec_total _ _
    · exact ⟨_, rfl⟩
  · split
    · exact ⟨_, rfl⟩
    · split
      · exact ⟨_, rfl⟩
      · split
        · next r _ =>
          cases r <;> simp only [regWrite, raise, pushKey, execWord] <;> (repeat' split) <;>
            first
              | exact exec_total _ _
              | exact ⟨_, rfl⟩
        · exact ⟨_, rfl⟩

/-- Everything a read can do (R59). -/
theorem memRead_cases (a : Offset) (s : State) :
    (s.frozen = true ∧ memRead a s = (s, frozenRead a s)) ∨
    (s.frozen = false ∧ BadRead a ∧
      memRead a s = (enterFault .bus (readInfo a) s, 0x00000000#32)) ∨
    (s.frozen = false ∧ ∃ r w, a = regOffset r ∧ regView r s = some w ∧ regStage r = none ∧
      memRead a s = (s, w)) ∨
    (s.frozen = false ∧ ∃ r w st, a = regOffset r ∧ regView r s = some w ∧ regStage r = some st ∧
      s.valid st = true ∧ memRead a s = (s, w)) ∨
    (s.frozen = false ∧ ∃ r st, a = regOffset r ∧ regStage r = some st ∧ s.valid st = false ∧
      memRead a s = (enterFault .rdinv (readInfo a) s, 0x00000000#32)) := by
  unfold memRead
  split
  · next hf => exact .inl ⟨hf, rfl⟩
  · next hf =>
    have hf : s.frozen = false := by simpa using hf
    split
    · next hm => exact .inr (.inl ⟨hf, .inl hm, rfl⟩)
    · split
      · next hu => exact .inr (.inl ⟨hf, .inr (.inl hu), rfl⟩)
      · split
        · next r hr =>
          have ha := regOffset_of_regAt hr
          unfold regRead
          split
          · next hv =>
            exact .inr (.inl ⟨hf, .inr (.inr (.inr ⟨r, (regView_isNone r s).1 hv, ha⟩)), rfl⟩)
          · next w hv =>
            split
            · next hst => exact .inr (.inr (.inl ⟨hf, r, w, ha, hv, hst, rfl⟩))
            · next st hst =>
              split
              · next hval => exact .inr (.inr (.inr (.inl ⟨hf, r, w, st, ha, hv, hst, hval, rfl⟩)))
              · next hval =>
                exact .inr (.inr (.inr (.inr ⟨hf, r, st, ha, hst, hval, rfl⟩)))
        · next hn => exact .inr (.inl ⟨hf, .inr (.inr (.inl hn)), rfl⟩)

/-- Everything a step can do: nothing pending, or the next event performed on the state it was taken
from. -/
theorem step_cases {s t : State} (h : step s = .next t) :
    (s.pending = [] ∧ t = s) ∨
    (∃ a d q, s.pending = .write a d :: q ∧ memWrite a d (accept q s) = .next t) ∨
    (∃ a q, s.pending = .read a :: q ∧
      t = { (memRead a (accept q s)).1 with rdata := some (memRead a (accept q s)).2 }) ∨
    (∃ q, s.pending = .reset :: q ∧ t = resetFields (accept q s)) := by
  unfold step at h
  split at h
  · next hp => exact .inl ⟨hp, by cases h; rfl⟩
  · next e q hp =>
    cases e with
    | write a d => exact .inr (.inl ⟨a, d, q, hp, h⟩)
    | read a => exact .inr (.inr (.inl ⟨a, q, hp, by cases h; rfl⟩))
    | reset => exact .inr (.inr (.inr ⟨q, hp, by cases h; rfl⟩))

end Sys2Proof.Machine
end

