-- ==== Sys2Proof/Laws/Units.lean ====
section
/-! SUPPORT. The small lemmas of the units: lengths of the byte sequences, the formatter on its domain,
the powers of ten. -/

namespace Sys2Proof.Machine

@[simp] theorem bytes32_length (w : Word) : (bytes32 w).length = 4 := by simp [bytes32]

@[simp] theorem be8_length (c : Counter) : (be8 c).length = 8 := by simp [be8]

@[simp] theorem text_length (s : State) : s.text.length = 8 := be8_length _

/-- `ROTL` (spec R10) is the rotation of a bit vector. -/
theorem rotl_eq_rotateLeft {n : Nat} (h : n < 32) (w : Word) : rotl n w = w.rotateLeft n := by
  rw [rotl, BitVec.rotateLeft_def, Nat.mod_eq_of_lt h]

@[simp] theorem blockWords_length (b : List Byte) : (blockWords b).length = 16 := by
  simp [blockWords]

@[simp] theorem scheduleExtend_length (n : Nat) (ws : List Word) :
    (scheduleExtend n ws).length = n + ws.length := by
  induction n with
  | zero => simp [scheduleExtend]
  | succ n ih => simp [scheduleExtend, ih]; omega

@[simp] theorem sha1Blocks_length (n : Nat) (bs : List Byte) : (sha1Blocks n bs).length = n := by
  induction n generalizing bs with
  | zero => rfl
  | succ n ih => simp [sha1Blocks, ih]

/-- Block `i` of a padded message, counted from 0 (R92). -/
theorem sha1Blocks_getElem? {n i : Nat} (h : i < n) (bs : List Byte) :
    (sha1Blocks n bs)[i]? = some ((bs.drop (64 * i)).take 64) := by
  induction n generalizing i bs with
  | zero => omega
  | succ n ih =>
    cases i with
    | zero => simp [sha1Blocks]
    | succ i =>
      simp only [sha1Blocks, List.getElem?_cons_succ]
      rw [ih (by omega), List.drop_drop, show 64 * (i + 1) = 64 + 64 * i by omega]

/-- The key block has the length of a SHA-1 block (spec R100). -/
@[simp] theorem keyBlock_length (k : List Byte) : (keyBlock k).length = 64 := by
  by_cases h : k.length > 64 <;> simp [keyBlock, h]
  omega

@[simp] theorem padBlock_length (p : Byte) (k : List Byte) : (padBlock p k).length = 64 := by
  simp [padBlock]

theorem timesTen_pos (n : Nat) : 0 < timesTen n := by
  induction n with
  | zero => decide
  | succ n ih => simp [timesTen, ih]

/-- On its domain the formatter is R121's formula. -/
theorem fmt_of_domain {c n : Nat} (h : 1 ≤ n ∧ n ≤ 8 ∧ c < 10 ^ n) :
    fmt c n = Vector.ofFn fun i : Fin 8 => if i.val < n then digitChar (decDigit c n i.val) else 0x00#8 :=
  if_pos h

theorem decDigit_lt (c n i : Nat) : decDigit c n i < 10 := Nat.mod_lt _ (by decide)

end Sys2Proof.Machine
end

