-- ==== Sys2Proof/Tests/Slice0.lean ====
section
/-! SUPPORT. The model's own tests, each about one step or one function, with the results the spec's
vectors give (V1 to V8 of `95_test_vectors.md`, or the example of the rule named), and after them one
witness for every obligation that has hypotheses: concrete states and operands that meet them. -/

namespace Sys2Proof.Tests

/- The kernel's evaluations of hashes run one after another: in parallel they would need one thread, and
its stack, each. -/
set_option Elab.async false

open Sys2Proof Sys2Proof.Machine

/-! ### Helpers -/

/-- The next state of an outcome, if it is one. -/
def nextOf (o : Host.Outcome State Fault Refusal) : Option State :=
  match o with
  | .next t => some t
  | .fault _ => none
  | .refused _ => none

/-- The state after one step on the event given. -/
def after (e : Event) (s : State) : Option State := nextOf (step { s with pending := [e] })

/-- What a host sees of the fault registers after one step from the reset state: STATUS, ERR and EINFO
(the columns of V8). -/
def faultView (e : Event) (s : State) : Option (Option Word × Option Word × Option Word) :=
  (after e s).map fun t => (regView .status t, regView .err t, regView .einfo t)

/-- Twenty bytes from five words. -/
def digestOf (a b c d e : Word) : Vector Byte 20 := (Chain.mk a b c d e).bytes

/-- A core with room for four key bytes, holding the one key byte `31`. -/
def keyed : State := { State.resetTo 4 with keybuf := [0x31#8, 0#8, 0#8, 0#8], klen := 1 }

/-- The same with a digit count of 6. -/
def ready : State := { keyed with digits := 6#4 }

/-- The digest of V4's first row. -/
def digest31 : Vector Byte 20 :=
  digestOf 0x91537696#32 0xC69CA2B9#32 0xFD3933D3#32 0xCA16A062#32 0x30DEE64A#32

/-- After HMAC. -/
def hashed : State := { ready with digest := digest31, dv := true }

/-- After HMAC and TRUNC. -/
def truncated : State := { hashed with offset := 10#4, sel := 0x33D3CA16#31, sv := true }

/-- After HMAC, TRUNC and MODR. -/
def reduced : State := { truncated with code := 517846#27, cv := true }

/-- After HOTP. -/
def done : State := hotpResult ready

/-- A full key buffer of one byte. -/
def full : State := { State.resetTo 1 with keybuf := [0xA5#8], klen := 1 }

/-- A frozen core. -/
def stuck : State := enterFault .seq 0x00000011#32 ready

/-! ### Well-formedness: an ill-formed term for each check -/

theorem test_wf_instr : Instr.wf .hotp = true := by decide
theorem test_wf_wr : (Stmt.wr .ctrLo (2 ^ 32)).wf = false ∧ (Stmt.wr .ctrLo (2 ^ 32 - 1)).wf = true := by
  decide
theorem test_wf_keyb : (Stmt.keyb 256).wf = false ∧ (Stmt.keyb 255).wf = true := by decide
theorem test_wf_key_odd : (Stmt.key [1, 2, 3]).wf = false := by decide
theorem test_wf_key_empty : (Stmt.key []).wf = false := by decide
theorem test_wf_key_digit : (Stmt.key [1, 16]).wf = false ∧ (Stmt.key [1, 15]).wf = true := by decide
theorem test_wf_keys : (Stmt.keys [Char.ofNat 0x7F]).wf = false ∧ (Stmt.keys ['1', '~']).wf = true := by
  decide
theorem test_wf_ctr : (Stmt.ctr (2 ^ 64)).wf = false ∧ (Stmt.ctr (2 ^ 64 - 1)).wf = true := by decide
theorem test_wf_digits : (Stmt.digits (2 ^ 32)).wf = false ∧ (Stmt.digits 6).wf = true := by decide

/-! ### Decoding: words written out from R74 and R76 -/

theorem test_decode_nop : decode (0x000000#24 ++ 0b00000000#8) = .ok .nop := by decide
theorem test_decode_clr : decode (0x000000#24 ++ 0b00000001#8) = .ok .clr := by decide
theorem test_decode_keyclr : decode (0x000000#24 ++ 0b00000010#8) = .ok .keyclr := by decide
theorem test_decode_hmac : decode (0x000000#24 ++ 0b00010000#8) = .ok .hmac := by decide
theorem test_decode_trunc : decode (0x000000#24 ++ 0b00010001#8) = .ok .trunc := by decide
theorem test_decode_modr : decode (0x000000#24 ++ 0b00010010#8) = .ok .modr := by decide
theorem test_decode_fmt : decode (0x000000#24 ++ 0b00010011#8) = .ok .fmt := by decide
theorem test_decode_hotp : decode (0x000000#24 ++ 0b00011111#8) = .ok .hotp := by decide

/-- The undefined words R78 names. -/
theorem test_decode_undefined :
    decode 0x0000011F#32 = .error .zeroField ∧ decode 0x00000003#32 = .error .opcode ∧
    decode 0x00000014#32 = .error .opcode ∧ decode 0x000000FF#32 = .error .opcode ∧
    decode 0x80000001#32 = .error .zeroField := by decide

theorem test_decodeTableWord :
    decodeTableWord 32 0x1F = some .hotp ∧ decodeTableWord 32 0x11F = none ∧
    decodeTableWord 8 0x11 = some .trunc := by decide

/-! ### The units, on the spec's vectors -/

/-- R91's example and corner cases: the zero bytes for 3, 55, 56 and no message bytes. -/
theorem test_padZeros :
    padZeros 3 = 52 ∧ padZeros 55 = 0 ∧ padZeros 56 = 63 ∧ padZeros 0 = 55 := by decide

/-- R94's example: the schedule of "abc". -/
theorem test_schedule_abc :
    let w := schedule (blockWords (sha1Pad [0x61#8, 0x62#8, 0x63#8]))
    w.getD 0 0 = 0x61626380#32 ∧ w.getD 15 0 = 0x00000018#32 ∧ w.getD 16 0 = 0xC2C4C700#32 ∧
      w.getD 79 0 = 0x822E0879#32 := by decide +kernel

/-- R96's example: the variables after the round `t = 0`. -/
theorem test_round_abc :
    sha1Round 0 0x61626380#32 sha1Init =
      ⟨0x0116FC33#32, 0x67452301#32, 0x7BF36AE2#32, 0x98BADCFE#32, 0x10325476#32⟩ := by decide

/-- R98's example. -/
theorem test_sha1_abc :
    sha1 [0x61#8, 0x62#8, 0x63#8] =
      digestOf 0xA9993E36#32 0x4706816A#32 0xBA3E2571#32 0x7850C26C#32 0x9CD0D89D#32 := by
  decide +kernel

/-- V3: 65 bytes `AA`, two blocks. -/
theorem test_sha1_two_blocks :
    sha1 (List.replicate 65 0xAA#8) =
      digestOf 0x0B531D74#32 0xB0BB03E9#32 0xA9811A7F#32 0x5F67AF3C#32 0xAF270383#32 := by
  decide +kernel

/-- R89's example. -/
theorem test_be8 :
    be8 0x0123456789ABCDEF#64 =
      [0x01#8, 0x23#8, 0x45#8, 0x67#8, 0x89#8, 0xAB#8, 0xCD#8, 0xEF#8] := by decide

/-- R104: the RFC key, counter 0. -/
theorem test_hmac_rfc :
    hmacSha1 [0x31#8, 0x32#8, 0x33#8, 0x34#8, 0x35#8, 0x36#8, 0x37#8, 0x38#8, 0x39#8, 0x30#8,
        0x31#8, 0x32#8, 0x33#8, 0x34#8, 0x35#8, 0x36#8, 0x37#8, 0x38#8, 0x39#8, 0x30#8] (be8 0#64) =
      digestOf 0xCC93CF18#32 0x508D9493#32 0x4C64B65D#32 0x8BA7667F#32 0xB7CDE4B0#32 := by
  decide +kernel

/-- V4: a key longer than the block. -/
theorem test_hmac_long_key :
    hmacSha1 (List.replicate 65 0xAA#8) (be8 1#64) =
      digestOf 0x129BD792#32 0xAD6FF021#32 0x281FDF60#32 0x76649D47#32 0xF72B6759#32 := by
  decide +kernel

/-- V4: a key of exactly one block, used as it is. -/
theorem test_hmac_block_key :
    hmacSha1 (List.replicate 64 0xFF#8) (be8 0#64) =
      digestOf 0x39865854#32 0xD4F6BE1A#32 0xBC727FDA#32 0x0D9B5C19#32 0xCD824B12#32 := by
  decide +kernel

/-- V5: the smallest and the largest offset, each with bit 31 set, and a high nibble that is ignored. -/
theorem test_select :
    select (digestOf 0xCC93CF18#32 0x508D9493#32 0x4C64B65D#32 0x8BA7667F#32 0xB7CDE4B0#32) =
      (0#4, 0x4C93CF18#31) ∧
    select (digestOf 0x387192E1#32 0x86642245#32 0x308EA94B#32 0xC80349FA#32 0x288D8A7F#32) =
      (15#4, 0x7A288D8A#31) ∧
    select (digestOf 0x00010203#32 0x04050607#32 0x08090A0B#32 0x0C0D0E0F#32 0x101112FA#32) =
      (10#4, 0x0A0B0C0D#31) := by decide +kernel

/-- V6, with the clamp. -/
theorem test_modRed :
    modRed 1284755224 6 = 755224 ∧ modRed 2147483647 8 = 47483647 ∧ modRed 1284755224 1 = 4 ∧
    modRed 1284755224 0 = 0 ∧ modRed 1284755224 15 = 84755224 := by decide

/-- V7: the document's example, one digit, eight digits. -/
theorem test_fmt :
    (fmt 42 6).toList = [0x30#8, 0x30#8, 0x30#8, 0x30#8, 0x34#8, 0x32#8, 0#8, 0#8] ∧
    (fmt 9 1).toList = [0x39#8, 0#8, 0#8, 0#8, 0#8, 0#8, 0#8, 0#8] ∧
    (fmt 84755224 8).toList =
      [0x38#8, 0x34#8, 0x37#8, 0x35#8, 0x35#8, 0x32#8, 0x32#8, 0x34#8] := by decide +kernel

/-! ### The commands, one step each -/

/-- R86: NOP does not clear a fault. -/
theorem test_nop : after (.write 0x00#8 0x00000000#32) stuck = some stuck := by decide +kernel

/-- R87's example: CLR of a frozen core is a full reset. -/
theorem test_clr : after (.write 0x00#8 0x00000001#32) stuck = some (State.resetTo 4) := by
  decide +kernel

/-- R88: the counter and the digit count outlive KEYCLR. -/
theorem test_keyclr :
    (after (.write 0x00#8 0x00000002#32) { reduced with ctr := 7#64 }).map (fun t =>
      (t.key, t.keybuf, t.ctr, t.digits, regView .status t)) =
    some ([], List.replicate 4 0#8, 7#64, 6#4, some 0#32) := by decide +kernel

/-- V4's first row; the later stages are cleared (R105). -/
theorem test_hmac : after (.write 0x00#8 0x00000010#32) reduced = some hashed := by decide +kernel

/-- V4's first row; TRUNC after MODR clears the code (R113). -/
theorem test_trunc : after (.write 0x00#8 0x00000011#32) reduced = some truncated := by decide +kernel

/-- V4's first row. -/
theorem test_modr : after (.write 0x00#8 0x00000012#32) truncated = some reduced := by decide +kernel

/-- V4's first row: "517846". -/
theorem test_fmt_step :
    (after (.write 0x00#8 0x00000013#32) reduced).map (fun t =>
      (regView .out0 t, regView .out1 t, regView .outLen t, regView .status t)) =
    some (some 0x35313738#32, some 0x34360000#32, some 6#32, some 0x0F#32) := by decide +kernel

/-- V4's first row, 8 digits: 69517846. -/
theorem test_hotp :
    (after (.write 0x00#8 0x0000001F#32) { ready with digits := 8#4 }).map (fun t =>
      [regView .digest0 t, regView .offset t, regView .sel t, regView .code t, regView .out0 t,
        regView .out1 t]) =
    some [some 0x91537696#32, some 10#32, some 0x33D3CA16#32, some 69517846#32, some 0x36393531#32,
      some 0x37383436#32] := by decide +kernel

/-! ### Faults (V8) and the port -/

theorem test_fault_illcmd :
    faultView (.write 0x00#8 0x0000011F#32) State.reset =
      some (some 0x10#32, some 1#32, some 0x0000011F#32) := by decide +kernel

theorem test_fault_bus_write :
    faultView (.write 0x1A#8 0x00000007#32) State.reset =
      some (some 0x10#32, some 2#32, some 0x0000011A#32) ∧
    faultView (.write 0x40#8 0x00000005#32) State.reset =
      some (some 0x10#32, some 2#32, some 0x00000140#32) ∧
    faultView (.write 0xFC#8 0x00000001#32) State.reset =
      some (some 0x10#32, some 2#32, some 0x000001FC#32) := by decide +kernel

theorem test_fault_bus_read :
    faultView (.read 0x00#8) State.reset = some (some 0x10#32, some 2#32, some 0x00000000#32) ∧
    faultView (.read 0x50#8) State.reset = some (some 0x10#32, some 2#32, some 0x00000050#32) ∧
    faultView (.read 0x53#8) State.reset = some (some 0x10#32, some 2#32, some 0x00000053#32) := by
  decide +kernel

/-- The 129th push, in a core of one byte the second (R63, V8). -/
theorem test_fault_keyovf :
    faultView (.write 0x10#8 0x000000A5#32) full = some (some 0x10#32, some 3#32, some 0x00000110#32) ∧
    (after (.write 0x10#8 0x000000A5#32) full).map (·.key) = some [0xA5#8] := by decide +kernel

/-- KEYEMPTY wins over DIGITS (R125). -/
theorem test_fault_keyempty :
    faultView (.write 0x00#8 0x0000001F#32) State.reset =
      some (some 0x10#32, some 4#32, some 0x0000001F#32) := by decide +kernel

/-- DIGITS; the digit count still reads 9 (V8). -/
theorem test_fault_digits :
    faultView (.write 0x00#8 0x00000012#32) { truncated with digits := 9#4 } =
      some (some 0x10#32, some 5#32, some 0x00000012#32) ∧
    (after (.write 0x00#8 0x0000001F#32) { ready with digits := 9#4 }).map
      (fun t => (t.digits, t.einfo, t.dv)) = some (9#4, 0x0000001F#32, false) := by decide +kernel

/-- SEQ wins over DIGITS (R117). -/
theorem test_fault_seq :
    faultView (.write 0x00#8 0x00000012#32) State.reset =
      some (some 0x10#32, some 6#32, some 0x00000012#32) := by decide +kernel

/-- A stale read is a fault and returns 0 (P4). -/
theorem test_fault_rdinv :
    faultView (.read 0x4C#8) State.reset = some (some 0x10#32, some 7#32, some 0x0000004C#32) ∧
    (after (.read 0x40#8) truncated).map (·.rdata) = some (some 0#32) := by decide +kernel

/-- P3: while frozen, writes are ignored, CODE reads 0 and DIGITS its value. -/
theorem test_frozen :
    after (.write 0x10#8 0x00000031#32) stuck = some stuck ∧
    after (.write 0x00#8 0x00000099#32) stuck = some stuck ∧
    after (.read 0x40#8) stuck = some { stuck with rdata := some 0#32 } ∧
    after (.read 0x20#8) stuck = some { stuck with rdata := some 6#32 } := by decide +kernel

/-- The examples of R63 to R66. -/
theorem test_operand_writes :
    (after (.write 0x10#8 0xFFFFFF31#32) State.reset).map (·.key) = some [0x31#8] ∧
    (after (.write 0x18#8 0x00000001#32) { ready with ctr := 5#64 }).map (·.ctr) =
      some 0x0000000100000005#64 ∧
    (after (.write 0x1C#8 0x00000009#32) ready).map (·.ctr) = some 9#64 ∧
    (after (.write 0x20#8 0x00000016#32) reduced).map (fun t => (t.digits, t.sv, t.cv)) =
      some (6#4, true, false) := by decide +kernel

/-- A read of a valid result returns it and changes nothing else (R68). -/
theorem test_read_result :
    after (.read 0x3C#8) truncated = some { truncated with rdata := some 0x33D3CA16#32 } := by
  decide +kernel

/-- A hardware reset of a frozen core (R149). -/
theorem test_hardware_reset : after .reset stuck = some (State.resetTo 4) := by decide +kernel

/-- The word presented by `withFetchWord` is the first command after reset. -/
theorem test_withFetchWord :
    (nextOf (step (State.reset.withFetchWord 32 0x1F))).map (fun t => (t.ecode, t.einfo)) =
      some (4#4, 0x1F#32) ∧
    nextOf (step (State.reset.withFetchWord 32 0x00)) = some State.reset := by decide +kernel

/-! ### Programs as records, the notation, the host's side -/

theorem test_record :
    eventRecord (.write 0x1C#8 0x0000002C#32) =
      ['W', ' ', '1', 'C', ' ', '0', '0', '0', '0', '0', '0', '2', 'C'] ∧
    eventRecord (.read 0x4C#8) = ['R', ' ', '4', 'C'] ∧
    parseRecord ['R', ' ', '4', 'c'] = some (.read 0x4C#8) ∧
    parseRecord ['R', ' ', '4', 'g'] = none := by decide +kernel

/-- The listing of P3, from `keys` on (here one character), and of P5's first key bytes. -/
theorem test_assemble :
    assemble [.keys ['1'], .ctr 44, .digits 6, .short .hotp, .rd .status] =
      [.write 0x10#8 0x31#32, .write 0x18#8 0#32, .write 0x1C#8 0x2C#32, .write 0x20#8 6#32,
       .write 0x00#8 0x1F#32, .read 0x04#8] ∧
    assemble [.key [0, 1, 4, 1], .wr .cmd 0x99, .reset] =
      [.write 0x10#8 0x01#32, .write 0x10#8 0x41#32, .write 0x00#8 0x99#32, .reset] := by
  decide +kernel

/-- R164, R165, R167: counters, a zero period, and the string of P1's registers. -/
theorem test_host_side :
    hostCounter 59 30 = some 1 ∧ hostCounter 59 0 = none ∧
    hostCodeString 6#32 0x37353532#32 0x32340000#32 =
      [0x37#8, 0x35#8, 0x35#8, 0x32#8, 0x32#8, 0x34#8] := by decide +kernel

/-! ### Witnesses: states that meet the invariant -/

theorem resetTo_inv {k : Nat} (h1 : 1 ≤ k) (h2 : k ≤ 65535) : CoreInv (State.resetTo k) where
  keyMax_pos := h1
  keyMax_le := h2
  keybuf_length := by simp [State.resetTo]
  klen_le := by simp [State.resetTo]
  keybuf_tail := by
    intro i _ hi
    simp only [State.resetTo] at hi ⊢
    rw [List.getElem?_replicate, if_pos hi]
  digest_ok := by simp [State.resetTo]
  selected_ok := by simp [State.resetTo]
  code_ok := by simp [State.resetTo]
  out_ok := by simp [State.resetTo]
  frozen_clear := by simp [State.resetTo]
  digest_clear := by simp [State.resetTo]
  selected_clear := by simp [State.resetTo]
  code_clear := by simp [State.resetTo]
  out_clear := by simp [State.resetTo]
  einfo_ok := .inl ⟨rfl, rfl⟩

/-- After HOTP the invariant holds with every stage valid. -/
theorem done_inv : CoreInv done where
  keyMax_pos := by decide
  keyMax_le := by decide
  keybuf_length := by decide
  klen_le := by decide
  keybuf_tail := by
    intro i h1 h2
    have : i = 1 ∨ i = 2 ∨ i = 3 := by
      have h1 : 1 ≤ i := h1
      have h2 : i < 4 := h2
      omega
    obtain rfl | rfl | rfl := this <;> rfl
  digest_ok := fun _ => ⟨rfl, by decide, rfl⟩
  selected_ok := fun _ => ⟨rfl, rfl⟩
  code_ok := fun _ => by
    refine ⟨rfl, by decide, by decide, ?_, ?_⟩ <;> decide +kernel
  out_ok := fun _ => ⟨rfl, rfl, rfl⟩
  frozen_clear := fun h => absurd rfl h
  digest_clear := fun h => by cases h
  selected_clear := fun h => by cases h
  code_clear := fun h => by cases h
  out_clear := fun h => by cases h
  einfo_ok := .inl ⟨rfl, rfl⟩

/-- `done` with a larger buffer: the same operands after another history. -/
def doneWide : State := { done with keyMax := 5, keybuf := [0x31#8, 0#8, 0#8, 0#8, 0#8] }

theorem doneWide_inv : CoreInv doneWide :=
  { done_inv with
    keyMax_pos := by decide
    keyMax_le := by decide
    keybuf_length := by decide
    klen_le := by decide
    keybuf_tail := by
      intro i h1 h2
      have : i = 1 ∨ i = 2 ∨ i = 3 ∨ i = 4 := by
        have h1 : 1 ≤ i := h1
        have h2 : i < 5 := h2
        omega
      obtain rfl | rfl | rfl | rfl := this <;> rfl }

/-! ### Witnesses: one for every obligation with hypotheses -/

theorem witness_ResetValuesOfEveryField :
    (∃ t, step { stuck with pending := [.reset] } = .next t) ∧ ∃ t, exec .clr stuck = .next t :=
  ⟨⟨_, rfl⟩, ⟨_, rfl⟩⟩

theorem witness_HardwareResetFromEveryState :
    ∃ (s : State) (q : List Event), s.pending = .reset :: q ∧ s.ecode ≠ 0#4 :=
  ⟨{ stuck with pending := [.reset, .read 0x04#8] }, [.read 0x04#8], rfl, by decide⟩

theorem witness_ResetStateSatisfiesInvariant : CoreInv (State.resetTo 1) ∧ CoreInv (State.resetTo 65535) :=
  ⟨resetTo_inv (by decide) (by decide), resetTo_inv (by decide) (by decide)⟩

theorem witness_EveryStepKeepsInvariant : ∃ s t, CoreInv s ∧ step s = .next t ∧ t ≠ s ∧ s.ov = true :=
  ⟨{ done with pending := [.write 0x20#8 8#32] }, writeDigits 8#32 done,
    { done_inv with }, rfl, fun h => by injection congrArg State.ov h, rfl⟩

theorem witness_ClrResetsEveryField :
    (∃ d : Word, d.extractLsb' 0 8 = 0x01#8 ∧ d.extractLsb' 8 24 ≠ 0#24) ∧ stuck.ecode ≠ 0#4 ∧
      (0x00#8, 0x00000000#32) ≠ (0x00#8, 0x00000001#32) :=
  ⟨⟨0x00000101#32, by decide, by decide⟩, by decide, by decide⟩

theorem witness_ReadsAfterReset :
    ∃ s : State, s = { State.resetTo 4 with pending := [.reset], rdata := some 5#32 } ∧
      Reg.digits ∈ [Reg.status, .err, .einfo, .klen, .ctrHi, .ctrLo, .digits] ∧
      Reg.outLen ∈ [Reg.digest0, .digest1, .digest2, .digest3, .digest4, .offset, .sel, .code, .out0,
        .out1, .outLen] :=
  ⟨_, rfl, by decide, by decide⟩

theorem witness_KeyclrZeroisesTheKey : stuck.ecode ≠ 0#4 ∧ CoreInv State.reset ∧ State.reset.klen = 0 :=
  ⟨by decide, resetTo_inv (by decide) (by decide), rfl⟩

theorem witness_HmacComputesTheDigest : State.reset.klen = 0 ∧ ready.klen ≠ 0 ∧ full.klen ≠ 0 := by
  decide

theorem witness_TruncSelectsTheValue : ready.dv = false ∧ done.dv = true := ⟨rfl, rfl⟩

theorem witness_ModrReducesTheValue :
    hashed.sv = false ∧
    (∃ s : State, s.sv = true ∧ s.digits.toNat < 1) ∧ (∃ s : State, s.sv = true ∧ s.digits.toNat = 9) ∧
    (∃ s : State, s.sv = true ∧ s.digits.toNat = 1) ∧ ∃ s : State, s.sv = true ∧ s.digits.toNat = 8 :=
  ⟨rfl, ⟨{ truncated with digits := 0#4 }, by decide⟩, ⟨{ truncated with digits := 9#4 }, by decide⟩,
    ⟨{ truncated with digits := 1#4 }, by decide⟩, ⟨{ truncated with digits := 8#4 }, by decide⟩⟩

theorem witness_FmtWritesTheString :
    truncated.cv = false ∧
    (∃ s : State, s.cv = true ∧ s.digits.toNat = 1 ∧ s.code.toNat = 9) ∧
    ∃ s : State, s.cv = true ∧ s.digits.toNat = 8 ∧ s.code.toNat = 99999999 :=
  ⟨rfl, ⟨{ reduced with digits := 1#4, code := 9#27 }, by decide⟩,
    ⟨{ reduced with digits := 8#4, code := 99999999#27 }, by decide⟩⟩

theorem witness_HotpComputesEveryStage :
    State.reset.klen = 0 ∧ (keyed.klen ≠ 0 ∧ keyed.digits.toNat < 1) ∧
    (∃ s : State, s.klen ≠ 0 ∧ s.digits.toNat = 9) ∧ (∃ s : State, s.klen ≠ 0 ∧ s.digits.toNat = 1) ∧
    ∃ s : State, s.klen ≠ 0 ∧ s.digits.toNat = 8 :=
  ⟨rfl, by decide, ⟨{ ready with digits := 9#4 }, by decide⟩, ⟨{ ready with digits := 1#4 }, by decide⟩,
    ⟨{ ready with digits := 8#4 }, by decide⟩⟩

theorem witness_HotpEqualsTheFourCommands :
    (ready.ecode = 0#4 ∧ ready.klen ≠ 0 ∧ 1 ≤ ready.digits.toNat ∧ ready.digits.toNat ≤ 8) ∧
    (State.reset.ecode = 0#4 ∧ State.reset.klen = 0) ∧
    keyed.ecode = 0#4 ∧ keyed.klen ≠ 0 ∧ keyed.digits.toNat < 1 := by decide

theorem witness_RepeatedWriteIsIdempotent (d : Word) :
    (∃ t, memWrite 0x00#8 d ready = .next t) ∧ (∃ t, memWrite 0x18#8 d ready = .next t) ∧
    (∃ t, memWrite 0x1C#8 d ready = .next t) ∧ ∃ t, memWrite 0x20#8 d stuck = .next t :=
  ⟨memWrite_total _ _ _, memWrite_total _ _ _, memWrite_total _ _ _, memWrite_total _ _ _⟩

theorem witness_DecodeAfterEncode : Instr.wf .nop = true ∧ Instr.wf .hotp = true := by decide

theorem witness_UndefinedWordRaisesIllcmd :
    (0x00000014#32 ∉ [0x00#32, 0x01#32, 0x02#32, 0x10#32, 0x11#32, 0x12#32, 0x13#32, 0x1F#32]) ∧
    (0x00000101#32 ∉ [0x00#32, 0x01#32, 0x02#32, 0x10#32, 0x11#32, 0x12#32, 0x13#32, 0x1F#32]) ∧
    ready.ecode = 0#4 ∧ stuck.ecode ≠ 0#4 := by decide

theorem witness_StepRunsTheDecodedCommand :
    ∃ (s : State) (q : List Event), s.pending = .write 0x00#8 0x1F#32 :: q ∧ s.ecode = 0#4 ∧
      decode 0x1F#32 = .ok .hotp ∧ decode (BitVec.ofNat 32 0x1F) = .ok .hotp :=
  ⟨{ ready with pending := [.write 0x00#8 0x1F#32] }, [], by decide⟩

theorem witness_StepPerformsTheNextEvent :
    State.reset.pending = [] ∧
    (∃ s : State, s.pending = .write 0x10#8 0x31#32 :: []) ∧ ∃ s : State, s.pending = .read 0x04#8 :: [] :=
  ⟨rfl, ⟨{ ready with pending := [.write 0x10#8 0x31#32] }, rfl⟩,
    ⟨{ ready with pending := [.read 0x04#8] }, rfl⟩⟩

theorem witness_StepDependsOnTheEventAlone : ∃ (s : State) (q : List Event), s.pending = .reset :: q :=
  ⟨{ ready with pending := [.reset] }, [], rfl⟩

/-- One offset for each clause, the first and the last mapped offset among them; no offset falls under
two clauses. -/
theorem witness_MemWriteDecodesInOrder :
    stuck.ecode ≠ 0#4 ∧ ready.ecode = 0#4 ∧ (0x4D#8).extractLsb' 0 2 ≠ 0#2 ∧ 0x50 ≤ (0x50#8).toNat ∧
    ∀ a : Offset, a ∈ [0x00#8, 0x10#8, 0x18#8, 0x1C#8, 0x20#8] →
      a.extractLsb' 0 2 = 0#2 ∧ a.toNat < 0x50 ∧
      a ∉ [0x04#8, 0x08#8, 0x0C#8, 0x14#8, 0x24#8, 0x28#8, 0x2C#8, 0x30#8, 0x34#8, 0x38#8, 0x3C#8,
        0x40#8, 0x44#8, 0x48#8, 0x4C#8] := by decide +kernel

/-- One offset for each clause; no offset falls under two clauses that differ. -/
theorem witness_MemReadDecodesInOrder :
    (0x20#8, Reg.digits) ∈ [(0x04#8, Reg.status), (0x08#8, .err), (0x0C#8, .einfo), (0x14#8, .klen),
      (0x18#8, .ctrHi), (0x1C#8, .ctrLo), (0x20#8, .digits)] ∧
    (stuck.ecode ≠ 0#4 ∧ (0x4C#8 : Offset) ∉ [0x04#8, 0x08#8, 0x0C#8, 0x14#8, 0x18#8, 0x1C#8, 0x20#8]) ∧
    (ready.ecode = 0#4 ∧ (0x4F#8 : Offset).extractLsb' 0 2 ≠ 0#2 ∧ 0x50 ≤ (0x50#8 : Offset).toNat) ∧
    (truncated.ecode = 0#4 ∧ truncated.dv = true ∧ truncated.sv = true ∧ truncated.cv = false ∧
      truncated.ov = false) ∧
    ∀ a : Offset, a ∈ [0x04#8, 0x08#8, 0x0C#8, 0x14#8, 0x18#8, 0x1C#8, 0x20#8, 0x24#8, 0x28#8, 0x2C#8,
        0x30#8, 0x34#8, 0x38#8, 0x3C#8, 0x40#8, 0x44#8, 0x48#8, 0x4C#8] →
      a.extractLsb' 0 2 = 0#2 ∧ a.toNat < 0x50 ∧ a ≠ 0x00#8 ∧ a ≠ 0x10#8 := by decide +kernel

theorem witness_KeyPushAppendsOneByte :
    (full.ecode = 0#4 ∧ full.klen = full.keyMax) ∧ ready.ecode = 0#4 ∧ ready.klen ≠ ready.keyMax := by
  decide

theorem witness_operand_writes : ready.ecode = 0#4 ∧ reduced.ecode = 0#4 := by decide

theorem witness_StatusBits : regView .status stuck = some 0x10#32 ∧ regView .status reduced = some 7#32 := by
  decide +kernel

theorem witness_DigestRegistersShowTheDigest :
    (regView .digest4 hashed = some 0x30DEE64A#32) ∧ ∃ (s : State) (m : List Byte), s.digest = sha1 m :=
  ⟨by decide +kernel, { ready with digest := sha1 [] }, [], rfl⟩

theorem witness_OutRegistersShowTheString :
    ∃ s : State, regView .out0 s = some 0x30313233#32 ∧ regView .out1 s = some 0x34353637#32 :=
  ⟨{ reduced with out := Vector.ofFn fun i => BitVec.ofNat 8 (0x30 + i.val) }, by decide +kernel⟩

theorem witness_RegisterFieldsAndReservedBits :
    ∃ s : State, regView .klen s = some 65535#32 ∧ s.klen ≤ 65535 ∧ regView .ctrHi s = some 0#32 ∧
      regView .ctrLo s = some 0#32 ∧ regView .sel s = some 0x33D3CA16#32 ∧ regView .err s = some 0#32 :=
  ⟨{ truncated with klen := 65535 }, by decide +kernel⟩

theorem witness_OperandWriteMakesResultsUnreadable :
    (∃ t, memWrite 0x10#8 0x31#32 hashed = .next t ∧ t.ecode = 0#4) ∧
    (∃ t, memWrite 0x10#8 0x31#32 full = .next t ∧ t.ecode ≠ 0#4) ∧
    (∃ t, memWrite 0x18#8 1#32 hashed = .next t ∧ t.ecode = 0#4) ∧
    (∃ t, memWrite 0x1C#8 1#32 hashed = .next t ∧ t.ecode = 0#4) ∧
    (∃ t, exec .keyclr hashed = .next t ∧ t.ecode = 0#4) ∧
    (∃ t, memWrite 0x20#8 8#32 reduced = .next t ∧ t.ecode = 0#4) ∧
    (hashed.ecode = 0#4 ∧ full.ecode = 0#4 ∧ reduced.ecode = 0#4) ∧
    Reg.digest0 ∈ [Reg.digest0, .digest1, .digest2, .digest3, .digest4, .offset, .sel, .code, .out0,
      .out1, .outLen] ∧ Reg.code ∈ [Reg.code, .out0, .out1, .outLen] :=
  ⟨⟨_, rfl, by decide⟩, ⟨_, rfl, by decide⟩, ⟨_, rfl, by decide⟩, ⟨_, rfl, by decide⟩,
    ⟨_, rfl, by decide⟩, ⟨_, rfl, by decide⟩, by decide, by decide, by decide⟩

/-- A state whose next event is the one given. -/
def facing (e : Event) (s : State) : State := { s with pending := [e] }

theorem witness_FaultsArePrecise :
    (∃ s t e q, s.pending = e :: q ∧ s.ecode = 0#4 ∧ step s = .next t ∧ t.ecode ≠ 0#4 ∧
      e = .read 0x40#8) ∧
    ∃ s t e q, s.pending = e :: q ∧ s.ecode = 0#4 ∧ step s = .next t ∧ t.ecode ≠ 0#4 ∧
      e = .write 0x00#8 0x14#32 :=
  ⟨⟨facing (.read 0x40#8) truncated, _, .read 0x40#8, [], rfl, rfl, rfl, by decide, rfl⟩,
    facing (.write 0x00#8 0x14#32) truncated, _, .write 0x00#8 0x14#32, [], rfl, rfl, rfl, by decide,
    rfl⟩

/-- For each fault an event that raises it. -/
theorem witness_FaultsRaisedByEachEvent :
    (∃ t, step (facing (.read 0x53#8) ready) = .next t ∧ t.ecode = FaultCode.bus.code) ∧
    (∃ t, step (facing (.read 0x24#8) ready) = .next t ∧ t.ecode = FaultCode.rdinv.code) ∧
    (∃ t, step (facing (.write 0x04#8 0#32) ready) = .next t ∧ t.ecode = FaultCode.bus.code) ∧
    (∃ t, step (facing (.write 0x10#8 0#32) full) = .next t ∧ t.ecode = FaultCode.keyovf.code) ∧
    (∃ t, step (facing (.write 0x00#8 3#32) ready) = .next t ∧ t.ecode = FaultCode.illcmd.code) ∧
    (∃ t, step (facing (.write 0x00#8 0x10#32) State.reset) = .next t ∧
      t.ecode = FaultCode.keyempty.code) ∧
    (∃ t, step (facing (.write 0x00#8 0x13#32) ready) = .next t ∧ t.ecode = FaultCode.seq.code) ∧
    ∃ t, step (facing (.write 0x00#8 0x1F#32) keyed) = .next t ∧ t.ecode = FaultCode.digits.code :=
  ⟨⟨_, rfl, by decide⟩, ⟨_, rfl, by decide⟩, ⟨_, rfl, by decide⟩, ⟨_, rfl, by decide⟩,
    ⟨_, rfl, by decide⟩, ⟨_, rfl, by decide⟩, ⟨_, rfl, by decide⟩, ⟨_, rfl, by decide⟩⟩

theorem witness_FrozenLeftOnlyByClrOrReset :
    (stuck.ecode ≠ 0#4) ∧ (∃ t, step (facing (.write 0x00#8 1#32) stuck) = .next t) ∧
    (∃ t, step (facing .reset stuck) = .next t) ∧
    (∃ t, step (facing (.write 0x00#8 0#32) stuck) = .next t) ∧
    ∃ t, step (facing (.read 0x24#8) stuck) = .next t :=
  ⟨by decide, ⟨_, rfl⟩, ⟨_, rfl⟩, ⟨_, rfl⟩, ⟨_, rfl⟩⟩

theorem witness_OperandsChangeOnlyByHostWrites :
    ∃ s t e q, s.pending = e :: q ∧ step s = .next t ∧ e ≠ .reset ∧ e ≠ .write 0x00#8 0x00000001#32 ∧
      (∀ d, e ≠ .write 0x18#8 d ∧ e ≠ .write 0x1C#8 d) ∧ (∀ d, e ≠ .write 0x20#8 d) ∧
      (∀ d, e ≠ .write 0x10#8 d) ∧ e ≠ .write 0x00#8 0x00000002#32 :=
  ⟨facing (.write 0x00#8 0x1F#32) ready, _, .write 0x00#8 0x1F#32, [], rfl, rfl, by decide, by decide,
    by simp, by simp, by simp, by decide⟩

/-- Two cores with keys of one byte, `31` and `32`, and a read of KLEN. -/
theorem witness_KeyBytesShowOnlyInResults :
    ∃ s t s' t' e q, SameButKeyBytes s t ∧ s.keybuf ≠ t.keybuf ∧ s.pending = e :: q ∧
      step s = .next s' ∧ step t = .next t' ∧
      ∀ r st, regStage r = some st → s.valid st = true → e ≠ .read (regOffset r) :=
  ⟨facing (.read 0x14#8) ready, facing (.read 0x14#8) { ready with keybuf := [0x32#8, 0#8, 0#8, 0#8] },
    _, _, .read 0x14#8, [], ⟨rfl, rfl, rfl, rfl, rfl, rfl, rfl, rfl, rfl, rfl, rfl⟩, by decide, rfl, rfl,
    rfl, fun r st h _ => by cases r <;> cases h <;> decide⟩

theorem witness_ReadCodeIsTheOperandsCode :
    ∃ s, CoreInv s ∧ s.ecode = 0#4 ∧
      (∃ w, memRead (regOffset .code) s = (s, w)) ∧ (∃ w, memRead (regOffset .out0) s = (s, w)) ∧
      (∃ w, memRead (regOffset .out1) s = (s, w)) ∧ ∃ w, memRead (regOffset .outLen) s = (s, w) :=
  ⟨done, done_inv, rfl, ⟨_, rfl⟩, ⟨_, rfl⟩, ⟨_, rfl⟩, ⟨_, rfl⟩⟩

theorem witness_ResultsDependOnOperandsAlone :
    ∃ s t, CoreInv s ∧ CoreInv t ∧ s.ov = true ∧ t.ov = true ∧
      s.keybuf.take s.klen = t.keybuf.take t.klen ∧ s.ctr = t.ctr ∧ s.digits = t.digits ∧
      s.keyMax ≠ t.keyMax :=
  ⟨done, doneWide, done_inv, doneWide_inv, rfl, rfl, rfl, rfl, rfl, by decide⟩

theorem witness_PaddingShape :
    (List.replicate 55 0#8).length < 2 ^ 61 ∧ (List.replicate 56 0#8).length < 2 ^ 61 := by
  simp

theorem witness_ScheduleRecurrence : (List.replicate 16 0#32).length = 16 := by simp

/-- A block of 64 bytes, and a round in each of the four ranges at its two ends. -/
theorem witness_CompressionRunsTheEightyRounds :
    (List.replicate 64 0#8).length = 64 ∧ (0 ≤ 19 ∧ 19 < 20 ∧ 39 < 40 ∧ 59 < 60 ∧ 79 < 80) := by simp

/-- One block and two. -/
theorem witness_HashChainsTheBlocks :
    (List.replicate 55 0#8).length < 2 ^ 61 ∧ (sha1Pad (List.replicate 55 0#8)).length = 64 * 1 ∧
      (List.replicate 56 0#8).length < 2 ^ 61 ∧ (sha1Pad (List.replicate 56 0#8)).length = 64 * 2 := by
  decide +kernel

theorem witness_HmacIsFourCompressions :
    (∃ k x : List Byte, k.length = 64 ∧ x.length = 8) ∧ ∃ k x : List Byte, k.length = 1 ∧ x.length = 8 :=
  ⟨⟨List.replicate 64 0#8, be8 0#64, by simp, rfl⟩, ⟨[0#8], be8 0#64, rfl, rfl⟩⟩

theorem witness_EquivalentKeysGiveEqualDigests :
    (∃ k : List Byte, k.length = 64) ∧ (∃ k : List Byte, 64 < k.length) ∧
      ∃ (k : List Byte) (n : Nat), k.length + n ≤ 64 ∧ 0 < n :=
  ⟨⟨List.replicate 64 0#8, by simp⟩, ⟨List.replicate 65 0#8, by simp⟩, ⟨[0x31#8], 63, by simp⟩⟩

theorem witness_ReductionKeepsTheLowDigits : (0 < min 1 8) ∧ 7 < min 15 8 := by decide

theorem witness_FormattedStringDenotesTheCode :
    (1 ≤ 1 ∧ 1 ≤ 8 ∧ 9 < 10 ^ 1) ∧ 1 ≤ 8 ∧ 8 ≤ 8 ∧ 99999999 < 10 ^ 8 := by decide

end Sys2Proof.Tests
end

section
/-! The state (spec 10_state.md): what a valid stage holds, as a function of the operands (R38 to R45);
the reset values (R37); the STATUS register (R31). -/

namespace Sys2Proof.Machine

/-! ### A valid stage holds the value computed from the operands (R38 to R41) -/

theorem CoreInv.digest_eq {s : State} (hs : CoreInv s) (hdv : s.dv = true) :
    s.digest = hmacSha1 s.key s.text :=
  (hs.digest_ok hdv).2.2

theorem CoreInv.selected_eq {s : State} (hs : CoreInv s) (hsv : s.sv = true) :
    (s.offset, s.sel) = select (hmacSha1 s.key s.text) := by
  obtain ⟨hdv, hsel⟩ := hs.selected_ok hsv
  rw [hsel, hs.digest_eq hdv]

theorem CoreInv.code_toNat_eq {s : State} (hs : CoreInv s) (hcv : s.cv = true) :
    s.code.toNat =
      (select (hmacSha1 s.key s.text)).2.toNat % 10 ^ s.digits.toNat := by
  obtain ⟨hsv, -, -, hcode, -⟩ := hs.code_ok hcv
  rw [hcode, ← hs.selected_eq hsv]

/-- The valid flags are set in the order of the stages. -/
theorem CoreInv.valid_of_ov {s : State} (hs : CoreInv s) (hov : s.ov = true) :
    s.dv = true ∧ s.sv = true ∧ s.cv = true := by
  have hcv := (hs.out_ok hov).1
  have hsv := (hs.code_ok hcv).1
  exact ⟨(hs.selected_ok hsv).1, hsv, hcv⟩

/-- Settles O44: by the invariant each stage is computed from the stage before it, and the first one from
the key and the counter. -/
theorem resultsDependOnOperandsAlone : Obligations.ResultsDependOnOperandsAlone := by
  unfold Obligations.ResultsDependOnOperandsAlone
  intro s t hs ht hsov htov hkey hctr hdigits
  obtain ⟨hsdv, hssv, hscv⟩ := hs.valid_of_ov hsov
  obtain ⟨htdv, htsv, htcv⟩ := ht.valid_of_ov htov
  obtain ⟨-, hslen, hsout⟩ := hs.out_ok hsov
  obtain ⟨-, htlen, htout⟩ := ht.out_ok htov
  have hmac : hmacSha1 s.key s.text = hmacSha1 t.key t.text := by
    simp only [State.key, State.text, hkey, hctr]
  have hselected : (s.offset, s.sel) = (t.offset, t.sel) := by
    rw [hs.selected_eq hssv, ht.selected_eq htsv, hmac]
  have hcode : s.code = t.code := by
    apply BitVec.eq_of_toNat_eq
    rw [hs.code_toNat_eq hscv, ht.code_toNat_eq htcv, hmac, hdigits]
  refine ⟨?digest, congrArg Prod.fst hselected, congrArg Prod.snd hselected, hcode, ?out, ?outlen⟩
  case digest => rw [hs.digest_eq hsdv, ht.digest_eq htdv, hmac]
  case out => rw [hsout, htout, hcode, hdigits]
  case outlen => rw [hslen, htlen, hdigits]

/-! ### Reset (R37) -/

/-- The hardware reset is the reset of every field, in the state that has accepted the event (R149). -/
theorem step_of_reset {s : State} {q : List Event} (h : s.pending = .reset :: q) :
    step s = .next (resetFields (accept q s)) := by
  simp only [step, h, perform]

theorem exec_clr (s : State) : exec .clr s = .next (resetFields s) := rfl

/-- The three ways to the reset state differ in the port's own fields alone. -/
theorem eq_resetTo_of_reset {s t : State}
    (h : (∃ q, s.pending = .reset :: q ∧ step s = .next t) ∨ exec .clr s = .next t ∨
      t = State.resetTo s.keyMax) :
    ∃ p r, t = { State.resetTo s.keyMax with pending := p, rdata := r } := by
  obtain ⟨q, hq, hstep⟩ | hclr | rfl := h
  · rw [step_of_reset hq] at hstep
    cases hstep
    exact ⟨q, none, rfl⟩
  · rw [exec_clr] at hclr
    cases hclr
    exact ⟨s.pending, s.rdata, rfl⟩
  · exact ⟨[], none, rfl⟩

/-- Settles O1: each of the three ways leads to the reset state, whose fields are read off. -/
theorem resetValuesOfEveryField : Obligations.ResetValuesOfEveryField := by
  unfold Obligations.ResetValuesOfEveryField
  refine ⟨rfl, fun s t h => ?_⟩
  obtain ⟨p, r, rfl⟩ := eq_resetTo_of_reset h
  exact ⟨rfl, List.length_replicate, fun i hi => List.getElem?_replicate_of_lt hi, rfl, rfl, rfl,
    fun i => Vector.getElem_replicate i.isLt, rfl, rfl, rfl, fun i => Vector.getElem_replicate i.isLt,
    rfl, rfl, rfl, rfl, rfl, rfl, rfl⟩

/-! ### The STATUS register (R31) -/

/-- A register that R61 lets be read while frozen belongs to no stage (R68), so it never faults. -/
theorem regStage_of_readInAnyState {r : Reg} (h : readInAnyState r = true) : regStage r = none := by
  cases r <;> simp_all [readInAnyState, regStage]

/-- Frozen or not, a read of such a register returns its value and changes nothing (R59, R61, R67). -/
theorem memRead_of_readInAnyState {s : State} {r : Reg} {w : Word} (h : readInAnyState r = true)
    (hw : regView r s = some w) : memRead (regOffset r) s = (s, w) := by
  cases hf : s.frozen with
  | true => simp [memRead_frozen hf, frozenRead, h, hw]
  | false => simp [memRead_regOffset hf, regRead, regStage_of_readInAnyState h, hw]

/-- Every bit of the STATUS word, from bit 0 on: the five flags, then zeros. (The width is written as the
sum of the parts' widths, so that the rule for a bit of an append applies.) -/
theorem statusWord_getLsbD (s : State) (i : Nat) :
    (statusWord s).getLsbD i = [s.dv, s.sv, s.cv, s.ov, s.frozen].getD i false := by
  change BitVec.getLsbD (w := 27 + 1 + 1 + 1 + 1 + 1) (statusWord s) i = _
  simp only [statusWord, BitVec.getLsbD_append]
  obtain _ | _ | _ | _ | _ | i := i <;> simp

theorem statusWord_reserved (s : State) : (statusWord s).extractLsb' 5 27 = 0#27 := by
  ext i hi
  simp [statusWord_getLsbD]

/-- Settles O32: the read returns the STATUS word in any state, and its bits are those of R31. -/
theorem statusBits : Obligations.StatusBits := by
  unfold Obligations.StatusBits
  intro s
  have hfault : (statusWord s).getLsbD 4 = true ↔ s.ecode ≠ 0#4 := by
    rw [statusWord_getLsbD]
    exact frozen_eq_true
  exact ⟨statusWord s, memRead_of_readInAnyState rfl rfl, statusWord_getLsbD s 0,
    statusWord_getLsbD s 1, statusWord_getLsbD s 2, statusWord_getLsbD s 3, hfault,
    statusWord_reserved s⟩

end Sys2Proof.Machine
end

section
/-! The decode of the port (spec R58 to R61, R68), case by case, and the operand writes (R63 to R66). -/

namespace Sys2Proof.Machine

/-! ### The tests of an address -/

theorem misaligned_eq_true {a : Offset} : misaligned a = true ↔ a.extractLsb' 0 2 ≠ 0#2 := by
  simp [misaligned]

theorem unmapped_eq_true {a : Offset} : unmapped a = true ↔ 0x50 ≤ a.toNat := by
  simp [unmapped, BitVec.le_def]

/-- The offsets whose write raises BUS (R58 line 4) are those of the read-only registers of R16. -/
theorem mem_readOnlyOffsets {a : Offset} :
    a ∈ [0x04#8, 0x08#8, 0x0C#8, 0x14#8, 0x24#8, 0x28#8, 0x2C#8, 0x30#8, 0x34#8, 0x38#8, 0x3C#8,
        0x40#8, 0x44#8, 0x48#8, 0x4C#8] ↔ ∃ r, regAccess r = .ro ∧ a = regOffset r := by
  change a ∈ (regList.filter fun r => regAccess r = .ro).map regOffset ↔ _
  simp [mem_regList, @eq_comm _ a]

/-- The registers read in any state (R61), with their offsets. -/
theorem mem_readInAnyStateRegisters {a : Offset} {r : Reg} :
    (a, r) ∈ [(0x04#8, Reg.status), (0x08#8, .err), (0x0C#8, .einfo), (0x14#8, .klen),
        (0x18#8, .ctrHi), (0x1C#8, .ctrLo), (0x20#8, .digits)] ↔
      readInAnyState r = true ∧ a = regOffset r := by
  change (a, r) ∈ (regList.filter readInAnyState).map (fun r => (regOffset r, r)) ↔ _
  simp [mem_regList, @eq_comm _ a]

/-- The offsets of the registers read in any state (R61). -/
theorem mem_readInAnyStateOffsets {a : Offset} :
    a ∈ [0x04#8, 0x08#8, 0x0C#8, 0x14#8, 0x18#8, 0x1C#8, 0x20#8] ↔
      ∃ r, readInAnyState r = true ∧ a = regOffset r := by
  change a ∈ (regList.filter readInAnyState).map regOffset ↔ _
  simp [mem_regList, @eq_comm _ a]

/-- The result registers, with their offsets and the flags of their stages (R68). -/
theorem mem_resultRegisters {s : State} {a : Offset} {r : Reg} {flag : Bool} :
    (a, r, flag) ∈ [(0x24#8, Reg.digest0, s.dv), (0x28#8, .digest1, s.dv),
        (0x2C#8, .digest2, s.dv), (0x30#8, .digest3, s.dv), (0x34#8, .digest4, s.dv),
        (0x38#8, .offset, s.sv), (0x3C#8, .sel, s.sv), (0x40#8, .code, s.cv),
        (0x44#8, .out0, s.ov), (0x48#8, .out1, s.ov), (0x4C#8, .outLen, s.ov)] ↔
      ∃ st, regStage r = some st ∧ a = regOffset r ∧ flag = s.valid st := by
  change (a, r, flag) ∈ regList.filterMap
    (fun r => (regStage r).map fun st => (regOffset r, r, s.valid st)) ↔ _
  simp [mem_regList, @eq_comm _ a, @eq_comm _ flag]

/-! ### Which registers have a view -/

theorem exists_regView {r : Reg} (h : regAccess r ≠ .wo) (s : State) : ∃ w, regView r s = some w :=
  Option.ne_none_iff_exists'.1 fun hv => h ((regView_isNone r s).1 hv)

theorem regAccess_of_readInAnyState {r : Reg} (h : readInAnyState r = true) : regAccess r ≠ .wo := by
  cases r <;> simp_all [readInAnyState, regAccess]

theorem regAccess_of_regStage {r : Reg} {st : Stage} (h : regStage r = some st) :
    regAccess r ≠ .wo := by
  cases r <;> simp_all [regStage, regAccess]

/-! ### A write, not frozen (R58) -/

theorem regWrite_of_ro {r : Reg} (h : regAccess r = .ro) (a : Offset) (d : Word) (s : State) :
    regWrite r a d s = raise .bus (busWriteInfo a) s := by
  cases r <;> cases h <;> rfl

/-- The converse of `memWrite_cases` for the writes the address map does not allow (R58 lines 2 to 4). -/
theorem memWrite_of_badWrite {s : State} (hf : s.frozen = false) {a : Offset} (ha : BadWrite a)
    (d : Word) : memWrite a d s = .next (enterFault .bus (busWriteInfo a) s) := by
  obtain hm | hu | hn | ⟨r, hro, rfl⟩ := ha
  · simp [memWrite, hf, hm, raise_eq]
  · simp [memWrite, hf, hu, raise_eq]
  · simp [memWrite, hf, hn, raise_eq]
  · rw [memWrite_regOffset hf, regWrite_of_ro hro, raise_eq]

section
variable {s : State} (hf : s.frozen = false) (d : Word)
include hf

theorem memWrite_cmd : memWrite 0x00#8 d s = execWord d s := memWrite_regOffset hf .cmd d

theorem memWrite_keyPush : memWrite 0x10#8 d s = pushKey d s := memWrite_regOffset hf .keyPush d

theorem memWrite_ctrHi : memWrite 0x18#8 d s = .next (writeCtrHi d s) :=
  memWrite_regOffset hf .ctrHi d

theorem memWrite_ctrLo : memWrite 0x1C#8 d s = .next (writeCtrLo d s) :=
  memWrite_regOffset hf .ctrLo d

theorem memWrite_digits : memWrite 0x20#8 d s = .next (writeDigits d s) :=
  memWrite_regOffset hf .digits d

end

/-- Settles O25: while frozen by R60's equation; otherwise the bad addresses are those of the fault, and
each writable register is reached at its own offset. -/
theorem memWriteDecodesInOrder : Obligations.MemWriteDecodesInOrder := by
  unfold Obligations.MemWriteDecodesInOrder
  intro s a d
  refine ⟨fun h => memWrite_frozen (frozen_eq_true.2 h) a d, fun h => ?_⟩
  have hf := frozen_eq_false.2 h
  refine ⟨fun hbad => memWrite_of_badWrite hf ?bad d, ?cmd, ?keyPush, ?ctrHi, ?ctrLo, ?digits⟩
  case bad =>
    obtain hm | hu | hro := hbad
    · exact .inl (misaligned_eq_true.2 hm)
    · exact .inr (.inl (unmapped_eq_true.2 hu))
    · exact .inr (.inr (.inr (mem_readOnlyOffsets.1 hro)))
  case cmd => rintro rfl; exact memWrite_cmd hf d
  case keyPush => rintro rfl; exact memWrite_keyPush hf d
  case ctrHi => rintro rfl; exact memWrite_ctrHi hf d
  case ctrLo => rintro rfl; exact memWrite_ctrLo hf d
  case digits => rintro rfl; exact memWrite_digits hf d

/-! ### The operand writes (R63 to R66) -/

theorem pushKey_of_full {s : State} (h : s.klen = s.keyMax) (d : Word) :
    pushKey d s = .next (enterFault .keyovf 0x00000110#32 s) := if_pos h

theorem pushKey_of_not_full {s : State} (h : s.klen ≠ s.keyMax) (d : Word) :
    pushKey d s = .next (invalidate .digest
      { s with keybuf := s.keybuf.set s.klen (d.extractLsb' 0 8), klen := s.klen + 1 }) := if_neg h

/-- Settles O28: the two branches of `pushKey`. -/
theorem keyPushAppendsOneByte : Obligations.KeyPushAppendsOneByte := by
  unfold Obligations.KeyPushAppendsOneByte
  intro s d h
  rw [memWrite_keyPush (frozen_eq_false.2 h)]
  exact ⟨fun hfull => pushKey_of_full hfull d, fun hfree => pushKey_of_not_full hfree d⟩

/-- Settles O29: the new counter is the word followed by the old lower half. -/
theorem ctrHiWritesTheUpperHalf : Obligations.CtrHiWritesTheUpperHalf := by
  unfold Obligations.CtrHiWritesTheUpperHalf
  intro s d h
  exact ⟨d ++ s.ctr.extractLsb' 0 32, BitVec.extractLsb'_append_eq_left,
    BitVec.extractLsb'_append_eq_right, memWrite_ctrHi (frozen_eq_false.2 h) d⟩

/-- Settles O30: the new counter is the old upper half followed by the word. -/
theorem ctrLoWritesTheLowerHalf : Obligations.CtrLoWritesTheLowerHalf := by
  unfold Obligations.CtrLoWritesTheLowerHalf
  intro s d h
  exact ⟨s.ctr.extractLsb' 32 32 ++ d, BitVec.extractLsb'_append_eq_right,
    BitVec.extractLsb'_append_eq_left, memWrite_ctrLo (frozen_eq_false.2 h) d⟩

/-- Settles O31: the write is `writeDigits`, which clears from the code stage on. -/
theorem digitsWriteKeepsTheDigest : Obligations.DigitsWriteKeepsTheDigest := by
  unfold Obligations.DigitsWriteKeepsTheDigest
  intro s d h
  exact memWrite_digits (frozen_eq_false.2 h) d

/-! ### A read (R59, R61, R68) -/

/-- While frozen every offset but those of R61's registers reads 0. -/
theorem frozenRead_of_not_readInAnyState {a : Offset}
    (h : ¬ ∃ r, readInAnyState r = true ∧ a = regOffset r) (s : State) :
    frozenRead a s = 0x00000000#32 := by
  unfold frozenRead
  split
  · next r hr => exact if_neg fun hany => h ⟨r, hany, regOffset_of_regAt hr⟩
  · rfl

theorem regRead_of_wo {r : Reg} (h : regAccess r = .wo) (a : Offset) (s : State) :
    regRead r a s = (enterFault .bus (readInfo a) s, 0x00000000#32) := by
  simp [regRead, (regView_isNone r s).2 h]

/-- The converse of `memRead_cases` for the reads the address map does not allow (R59 lines 2 to 4). -/
theorem memRead_of_badRead {s : State} (hf : s.frozen = false) {a : Offset} (ha : BadRead a) :
    memRead a s = (enterFault .bus (readInfo a) s, 0x00000000#32) := by
  obtain hm | hu | hn | ⟨r, hwo, rfl⟩ := ha
  · simp [memRead, hf, hm]
  · simp [memRead, hf, hu]
  · simp [memRead, hf, hn]
  · rw [memRead_regOffset hf, regRead_of_wo hwo]

/-- A result register whose stage is valid returns its value (R68). -/
theorem memRead_of_valid {s : State} (hf : s.frozen = false) {r : Reg} {st : Stage} {w : Word}
    (hst : regStage r = some st) (hval : s.valid st = true) (hw : regView r s = some w) :
    memRead (regOffset r) s = (s, w) := by
  simp [memRead_regOffset hf, regRead, hw, hst, hval]

/-- A result register whose stage is not valid raises RDINV and returns 0 (R68). -/
theorem memRead_of_not_valid {s : State} (hf : s.frozen = false) {r : Reg} {st : Stage}
    (hst : regStage r = some st) (hval : s.valid st = false) :
    memRead (regOffset r) s = (enterFault .rdinv (readInfo (regOffset r)) s, 0x00000000#32) := by
  obtain ⟨w, hw⟩ := exists_regView (regAccess_of_regStage hst) s
  simp [memRead_regOffset hf, regRead, hw, hst, hval]

/-- Settles O26: R61's registers in any state, the other offsets while frozen, and otherwise the bad
addresses and the result registers. -/
theorem memReadDecodesInOrder : Obligations.MemReadDecodesInOrder := by
  unfold Obligations.MemReadDecodesInOrder
  intro s a
  refine ⟨fun r hr => ?anyState, fun h ha => ?frozen, fun h => ?_⟩
  case anyState =>
    obtain ⟨hany, rfl⟩ := mem_readInAnyStateRegisters.1 hr
    obtain ⟨w, hw⟩ := exists_regView (regAccess_of_readInAnyState hany) s
    exact ⟨w, hw, memRead_of_readInAnyState hany hw⟩
  case frozen =>
    rw [memRead_frozen (frozen_eq_true.2 h),
      frozenRead_of_not_readInAnyState (mt mem_readInAnyStateOffsets.2 ha)]
  have hf := frozen_eq_false.2 h
  refine ⟨fun hbad => memRead_of_badRead hf ?bad, fun r flag hr => ?result⟩
  case bad =>
    obtain hm | hu | hcmd | hpush := hbad
    · exact .inl (misaligned_eq_true.2 hm)
    · exact .inr (.inl (unmapped_eq_true.2 hu))
    · exact .inr (.inr (.inr ⟨.cmd, rfl, hcmd⟩))
    · exact .inr (.inr (.inr ⟨.keyPush, rfl, hpush⟩))
  case result =>
    obtain ⟨st, hst, rfl, rfl⟩ := mem_resultRegisters.1 hr
    refine ⟨fun hval => ?_, fun hval => memRead_of_not_valid hf hst hval⟩
    obtain ⟨w, hw⟩ := exists_regView (regAccess_of_regStage hst) s
    exact ⟨w, hw, memRead_of_valid hf hst hval hw⟩

end Sys2Proof.Machine
end

section
/-! Decoding (spec 30_encoding.md): a word is determined by its two fields (R74); the words that select a
command are those of the opcode map (R76, R77); what every other word does when it is written (R78). -/

namespace Sys2Proof

/-! ### The two fields of a word (R74) -/

theorem zeroField_append_opcField (w : Word) : zeroField w ++ opcField w = w := by
  have happend : w.extractLsb' 8 24 ++ w.extractLsb' 0 8 = w.extractLsb' 0 32 :=
    BitVec.extractLsb'_append_extractLsb'_eq_extractLsb' rfl
  rwa [BitVec.extractLsb'_eq_self] at happend

theorem word_ext {v w : Word} (hzero : zeroField v = zeroField w) (hopc : opcField v = opcField w) :
    v = w := by
  rw [← zeroField_append_opcField v, hzero, hopc, zeroField_append_opcField w]

/-! ### The opcode map (R76) -/

/-- The statements of format C, made per command, for every command. -/
theorem formatC (i : Instr) : Laws.FormatC.Statement i := by
  cases i with
  | nop => exact Laws.FormatC.nop
  | clr => exact Laws.FormatC.clr
  | keyclr => exact Laws.FormatC.keyclr
  | hmac => exact Laws.FormatC.hmac
  | trunc => exact Laws.FormatC.trunc
  | modr => exact Laws.FormatC.modr
  | fmt => exact Laws.FormatC.fmt
  | hotp => exact Laws.FormatC.hotp

theorem zeroField_encode (i : Instr) : zeroField (encode i) = 0#24 := (formatC i).1

theorem opcField_encode_mem (i : Instr) : (opcField (encode i), i) ∈ opcodeMap := (formatC i).2

/-- The converse of `opcField_encode_mem`: a row of the map is the opcode of its own command. -/
theorem eq_opcField_encode_of_mem : ∀ row ∈ opcodeMap, row.1 = opcField (encode row.2) := by decide

/-- A word with the fields of a row of the map is the word of that row's command. -/
theorem eq_encode_of_fields {w : Word} {row : Byte × Instr} (hzero : zeroField w = 0#24)
    (hrow : row ∈ opcodeMap) (hopc : row.1 = opcField w) : w = encode row.2 :=
  word_ext (hzero.trans (zeroField_encode row.2).symm)
    (hopc.symm.trans (eq_opcField_encode_of_mem row hrow))

/-! ### Which words are commands (R77) -/

theorem decode_encode (i : Instr) : decode (encode i) = .ok i := by
  cases i <;> rfl

theorem eq_encode_of_decode {w : Word} {i : Instr} (h : decode w = .ok i) : w = encode i := by
  unfold decode at h
  split at h
  · cases h
  · next hzero =>
    split at h
    · next row hfind =>
      cases h
      have hopc := List.find?_some hfind
      exact eq_encode_of_fields (not_not.1 hzero) (List.mem_of_find?_eq_some hfind)
        (by simpa using hopc)
    · cases h

theorem decode_eq_ok_iff {w : Word} {i : Instr} : decode w = .ok i ↔ w = encode i :=
  ⟨eq_encode_of_decode, fun h => h ▸ decode_encode i⟩

/-- The eight words are the encodings of the commands of the map. -/
theorem decode_isOk_iff_mem_words {w : Word} :
    (∃ i, decode w = .ok i) ↔
      w ∈ [0x00#32, 0x01#32, 0x02#32, 0x10#32, 0x11#32, 0x12#32, 0x13#32, 0x1F#32] := by
  change _ ↔ w ∈ opcodeMap.map fun row => encode row.2
  rw [List.mem_map]
  constructor
  · rintro ⟨i, hi⟩
    exact ⟨_, opcField_encode_mem i, (eq_encode_of_decode hi).symm⟩
  · rintro ⟨row, -, rfl⟩
    exact ⟨row.2, decode_encode row.2⟩

/-- The eight opcodes are the first column of the map. -/
theorem decode_isOk_iff_fields {w : Word} :
    (∃ i, decode w = .ok i) ↔
      zeroField w = 0#24 ∧
      opcField w ∈ [0x00#8, 0x01#8, 0x02#8, 0x10#8, 0x11#8, 0x12#8, 0x13#8, 0x1F#8] := by
  change _ ↔ _ ∧ opcField w ∈ opcodeMap.map Prod.fst
  rw [List.mem_map]
  constructor
  · rintro ⟨i, hi⟩
    obtain rfl := eq_encode_of_decode hi
    exact ⟨zeroField_encode i, _, opcField_encode_mem i, rfl⟩
  · rintro ⟨hzero, row, hrow, hopc⟩
    exact ⟨row.2, decode_eq_ok_iff.2 (eq_encode_of_fields hzero hrow hopc)⟩

/-- Settles O16: decoding is the converse of encoding, and the two descriptions of the command words are
the columns of the opcode map. -/
theorem decodeSelectsExactlyTheEightWords : Obligations.DecodeSelectsExactlyTheEightWords := by
  unfold Obligations.DecodeSelectsExactlyTheEightWords
  exact ⟨fun _ _ => decode_eq_ok_iff,
    fun _ => ⟨decode_isOk_iff_mem_words, decode_isOk_iff_fields⟩⟩

end Sys2Proof

namespace Sys2Proof.Machine

/-! ### A word that is no command (R78) -/

theorem execWord_of_not_command {d : Word} (h : ¬ ∃ i, decode d = .ok i) (s : State) :
    execWord d s = .next (enterFault .illcmd d s) := by
  unfold execWord
  split
  · next i hi => exact absurd ⟨i, hi⟩ h
  · rfl

/-- While frozen only CLR's word has an effect (R60). -/
theorem memWrite_frozen_of_ne_clr {s : State} (h : s.frozen = true) (a : Offset) {d : Word}
    (hd : d ≠ 0x00000001#32) : memWrite a d s = .next s := by
  rw [memWrite_frozen h, if_neg fun hclr => hd hclr.2]

/-- Settles O20: not frozen, the word is executed, and it names no command; frozen, it is not CLR's. -/
theorem undefinedWordRaisesIllcmd : Obligations.UndefinedWordRaisesIllcmd := by
  unfold Obligations.UndefinedWordRaisesIllcmd
  intro s d hd
  refine ⟨fun h => ?notFrozen, fun h => ?frozen⟩
  case notFrozen =>
    rw [memWrite_cmd (frozen_eq_false.2 h), execWord_of_not_command (mt decode_isOk_iff_mem_words.1 hd)]
  case frozen =>
    refine memWrite_frozen_of_ne_clr (frozen_eq_true.2 h) _ ?_
    rintro rfl
    exact hd (by decide)

end Sys2Proof.Machine
end

section
/-! The housekeeping commands NOP, CLR and KEYCLR (spec 40_control.md): R86 to R88. -/

namespace Sys2Proof.Machine

/-! ### A command's word written to CMD (R62) -/

theorem execWord_encode (i : Instr) (s : State) : execWord (encode i) s = exec i s := by
  simp [execWord, decode_encode]

theorem memWrite_encode {s : State} (hf : s.frozen = false) (i : Instr) :
    memWrite 0x00#8 (encode i) s = exec i s := by
  rw [memWrite_cmd hf, execWord_encode]

/-! ### NOP (R86) -/

theorem exec_nop (s : State) : exec .nop s = .next s := rfl

/-- Settles O6: the write executes the command when the core is not frozen, and is ignored when it is. -/
theorem nopChangesNothing : Obligations.NopChangesNothing := by
  unfold Obligations.NopChangesNothing
  refine ⟨decode_encode .nop, fun s => ⟨exec_nop s, ?_⟩⟩
  cases hf : s.frozen with
  | true => exact memWrite_frozen_of_ne_clr hf _ (by decide)
  | false => exact memWrite_encode hf .nop

/-! ### CLR (R87) -/

/-- CLR is the one command obeyed while frozen (R60). -/
theorem memWrite_clr (s : State) : memWrite 0x00#8 0x00000001#32 s = exec .clr s := by
  cases hf : s.frozen with
  | true => rw [memWrite_frozen hf, if_pos ⟨rfl, rfl⟩, exec_clr]
  | false => exact memWrite_encode hf .clr

/-- A field ZERO that is not 0 belongs to no command (R77). -/
theorem not_mem_words_of_zeroField {d : Word} (h : zeroField d ≠ 0#24) :
    d ∉ [0x00#32, 0x01#32, 0x02#32, 0x10#32, 0x11#32, 0x12#32, 0x13#32, 0x1F#32] := fun hd =>
  h (decode_isOk_iff_fields.1 (decode_isOk_iff_mem_words.2 hd)).1

/-- Settles O7: CLR's word executes it, frozen or not; a word with ZERO not 0 is undefined (R78); frozen,
no other write and no read has an effect (R60, R61). -/
theorem clrResetsEveryField : Obligations.ClrResetsEveryField := by
  unfold Obligations.ClrResetsEveryField
  refine ⟨fun s => ⟨exec_clr s, memWrite_clr s, rfl⟩, fun k => exec_clr (State.resetTo k),
    fun s d _ hzero => ?zeroField, fun s a d h => ⟨fun hne => ?write, ?read⟩⟩
  case zeroField =>
    obtain ⟨hraise, hignore⟩ := undefinedWordRaisesIllcmd s d (not_mem_words_of_zeroField hzero)
    split
    · next h => exact hraise h
    · next h => exact hignore h
  case write => rw [memWrite_frozen (frozen_eq_true.2 h), if_neg (by simpa using hne)]
  case read => rw [memRead_frozen (frozen_eq_true.2 h)]

/-! ### KEYCLR (R88) -/

theorem exec_keyclr (s : State) :
    exec .keyclr s =
      .next (invalidate .digest { s with keybuf := List.replicate s.keyMax 0x00#8, klen := 0 }) := rfl

/-- Without a key the buffer is all zero (R44). -/
theorem CoreInv.keybuf_eq_of_no_key {s : State} (hs : CoreInv s) (hk : s.klen = 0) :
    s.keybuf = List.replicate s.keyMax 0x00#8 := by
  refine List.ext_getElem? fun i => ?_
  by_cases hi : i < s.keyMax
  · rw [hs.keybuf_tail i (by omega) hi, List.getElem?_replicate_of_lt hi]
  · rw [List.getElem?_eq_none (by rw [hs.keybuf_length]; omega),
      List.getElem?_eq_none (by rw [List.length_replicate]; omega)]

/-- A digest needs a key (R38). -/
theorem CoreInv.dv_eq_false_of_no_key {s : State} (hs : CoreInv s) (hk : s.klen = 0) :
    s.dv = false := by
  refine Bool.eq_false_iff.2 fun hdv => ?_
  obtain ⟨-, hpos, -⟩ := hs.digest_ok hdv
  omega

/-- Without a digest no stage is valid (R39 to R41), so all are clear (R43) and clearing them changes
nothing. -/
theorem CoreInv.invalidate_digest_eq_self {s : State} (hs : CoreInv s) (hdv : s.dv = false) :
    invalidate .digest s = s := by
  have hsv : s.sv = false := Bool.eq_false_iff.2 fun h => Bool.eq_false_iff.1 hdv (hs.selected_ok h).1
  have hcv : s.cv = false := Bool.eq_false_iff.2 fun h => Bool.eq_false_iff.1 hsv (hs.code_ok h).1
  have hov : s.ov = false := Bool.eq_false_iff.2 fun h => Bool.eq_false_iff.1 hcv (hs.out_ok h).1
  obtain ⟨hoffset, hsel⟩ := hs.selected_clear hsv
  obtain ⟨hout, houtlen⟩ := hs.out_clear hov
  ext1 <;> simp [hdv, hs.digest_clear hdv, hsv, hoffset, hsel, hcv, hs.code_clear hcv, hov, hout,
    houtlen]

/-- With no key loaded KEYCLR has nothing to clear. -/
theorem CoreInv.exec_keyclr_of_no_key {s : State} (hs : CoreInv s) (hk : s.klen = 0) :
    exec .keyclr s = .next s := by
  rw [exec_keyclr, ← hs.keybuf_eq_of_no_key hk, ← hk,
    hs.invalidate_digest_eq_self (hs.dv_eq_false_of_no_key hk)]

/-- Settles O8: the command's own equation, R60 while frozen, and the invariant with no key loaded. -/
theorem keyclrZeroisesTheKey : Obligations.KeyclrZeroisesTheKey := by
  unfold Obligations.KeyclrZeroisesTheKey
  exact ⟨decode_encode .keyclr, exec_keyclr,
    fun s h => memWrite_frozen_of_ne_clr (frozen_eq_true.2 h) _ (by decide),
    fun s hs hk => hs.exec_keyclr_of_no_key hk⟩

end Sys2Proof.Machine
end

section
/-! The hash units and the HMAC command (spec 41_hmac_sha1.md): the padding (R91), the message schedule
(R94), the rounds and the compression (R95, R96), the chaining (R93, R97), HMAC (R105). -/

namespace Sys2Proof.Machine

/-! ### The padding (R91) -/

theorem padZeros_mod (l : Nat) : (l + 1 + padZeros l) % 64 = 56 := by
  unfold padZeros; omega

/-- No smaller number of zero bytes reaches the residue. -/
theorem padZeros_le {l z : Nat} (h : (l + 1 + z) % 64 = 56) : padZeros l ≤ z := by
  unfold padZeros; omega

theorem sha1Pad_length (m : List Byte) :
    (sha1Pad m).length = 64 * ((m.length + 8) / 64 + 1) := by
  simp only [sha1Pad, padZeros, List.length_append, List.length_singleton, List.length_replicate,
    be8_length]
  omega

/-- Settles O46: the number of zero bytes is `padZeros`. -/
theorem paddingShape : Obligations.PaddingShape := by
  unfold Obligations.PaddingShape
  exact fun m _ => ⟨padZeros m.length, rfl, padZeros_mod _, fun _ => padZeros_le, sha1Pad_length m⟩

/-! ### The message schedule (R94) -/

/-- The words added later stand before the words already there. -/
theorem scheduleExtend_getElem?_add (k n i : Nat) (ws : List Word) :
    (scheduleExtend (n + k) ws)[k + i]? = (scheduleExtend n ws)[i]? := by
  induction k with
  | zero => simp
  | succ k ih =>
    rw [← ih, Nat.add_right_comm k 1 i]
    exact List.getElem?_cons_succ

theorem scheduleExtend_succ_getElem?_zero (n : Nat) (ws : List Word) :
    (scheduleExtend (n + 1) ws)[0]? = some (rotl 1 ((scheduleExtend n ws).getD 2 0 ^^^
      (scheduleExtend n ws).getD 7 0 ^^^ (scheduleExtend n ws).getD 13 0 ^^^
      (scheduleExtend n ws).getD 15 0)) := rfl

section
variable {m : List Word} (hm : m.length = 16)
include hm

theorem schedule_length : (schedule m).length = 80 := by simp [schedule, hm]

/-- Of the list with `n` words added, newest first, the word `i` is `W[n + 15 - i]`. -/
theorem schedule_getElem? {n i : Nat} (hn : n ≤ 64) (hi : i < n + 16) :
    (schedule m)[n + 15 - i]? = (scheduleExtend n m.reverse)[i]? := by
  have hlen : (scheduleExtend 64 m.reverse).length = 80 := by simp [hm]
  calc (schedule m)[n + 15 - i]?
      = (scheduleExtend 64 m.reverse)[80 - 1 - (n + 15 - i)]? := by
        rw [schedule, List.getElem?_reverse (by omega), hlen]
    _ = (scheduleExtend (n + (64 - n)) m.reverse)[64 - n + i]? := by
        congr 2 <;> omega
    _ = (scheduleExtend n m.reverse)[i]? := scheduleExtend_getElem?_add ..

theorem schedule_getElem?_of_lt {t : Nat} (ht : t < 16) : (schedule m)[t]? = m[t]? := by
  have h := schedule_getElem? hm (n := 0) (i := 15 - t) (by omega) (by omega)
  rw [show 0 + 15 - (15 - t) = t by omega] at h
  rw [h, scheduleExtend, List.getElem?_reverse (by omega), hm]
  congr 1
  omega

/-- The recurrence of R94. -/
theorem schedule_getD {t : Nat} (h16 : 16 ≤ t) (h80 : t < 80) :
    (schedule m).getD t 0 =
      rotl 1 ((schedule m).getD (t - 3) 0 ^^^ (schedule m).getD (t - 8) 0 ^^^
        (schedule m).getD (t - 14) 0 ^^^ (schedule m).getD (t - 16) 0) := by
  obtain ⟨n, rfl⟩ := Nat.exists_eq_add_of_le' h16
  have hprev (i : Nat) (hi : i < 16) :
      (scheduleExtend n m.reverse).getD i 0 = (schedule m).getD (n + 16 - (i + 1)) 0 := by
    rw [List.getD_eq_getElem?_getD, ← schedule_getElem? hm (by omega) (by omega),
      ← List.getD_eq_getElem?_getD]
    congr 1
    omega
  have hnew := schedule_getElem? hm (n := n + 1) (i := 0) (by omega) (by omega)
  rw [scheduleExtend_succ_getElem?_zero, hprev 2 (by omega), hprev 7 (by omega),
    hprev 13 (by omega), hprev 15 (by omega)] at hnew
  exact (List.getD_eq_getElem?_getD ..).trans (congrArg (Option.getD · 0) hnew)

end

/-- Settles O47: the schedule, read through the list that grows by one word at a time. -/
theorem scheduleRecurrence : Obligations.ScheduleRecurrence := by
  unfold Obligations.ScheduleRecurrence
  exact fun m hm => ⟨schedule_length hm, fun _ => schedule_getElem?_of_lt hm,
    fun _ => schedule_getD hm⟩

/-! ### The rounds and the compression (R95, R96) -/

theorem blockWords_getElem? {t : Nat} (ht : t < 16) (b : List Byte) :
    (blockWords b)[t]? = some (b.getD (4 * t) 0 ++ b.getD (4 * t + 1) 0 ++ b.getD (4 * t + 2) 0 ++
      b.getD (4 * t + 3) 0) := by
  simp [blockWords, be32, ht]

theorem sha1Rounds_append (t : Nat) (xs ys : List Word) (v : Chain) :
    sha1Rounds t (xs ++ ys) v = sha1Rounds (t + xs.length) ys (sha1Rounds t xs v) := by
  induction xs generalizing t v with
  | nil => rfl
  | cons x xs ih =>
    rw [List.cons_append, sha1Rounds, ih, sha1Rounds, List.length_cons, Nat.add_right_comm,
      Nat.add_assoc]

/-- `f_t` and `K_t` in the first range of R95. -/
theorem roundF_roundK_of_le_19 {t : Nat} (h : t ≤ 19) (b c d : Word) :
    roundF t b c d = (b &&& c) ||| (~~~b &&& d) ∧ roundK t = 0x5A827999#32 := by
  have h20 : t < 20 := by omega
  simp [roundF, roundK, h20]

/-- `f_t` and `K_t` in the second range of R95. -/
theorem roundF_roundK_of_le_39 {t : Nat} (hlo : 20 ≤ t) (hhi : t ≤ 39) (b c d : Word) :
    roundF t b c d = b ^^^ c ^^^ d ∧ roundK t = 0x6ED9EBA1#32 := by
  have h20 : ¬ t < 20 := by omega
  have h40 : t < 40 := by omega
  simp [roundF, roundK, h20, h40]

/-- `f_t` and `K_t` in the third range of R95. -/
theorem roundF_roundK_of_le_59 {t : Nat} (hlo : 40 ≤ t) (hhi : t ≤ 59) (b c d : Word) :
    roundF t b c d = (b &&& c) ||| (b &&& d) ||| (c &&& d) ∧ roundK t = 0x8F1BBCDC#32 := by
  have h20 : ¬ t < 20 := by omega
  have h40 : ¬ t < 40 := by omega
  have h60 : t < 60 := by omega
  simp [roundF, roundK, h20, h40, h60]

/-- `f_t` and `K_t` in the last range of R95. -/
theorem roundF_roundK_of_ge_60 {t : Nat} (h : 60 ≤ t) (b c d : Word) :
    roundF t b c d = b ^^^ c ^^^ d ∧ roundK t = 0xCA62C1D6#32 := by
  have h20 : ¬ t < 20 := by omega
  have h40 : ¬ t < 40 := by omega
  have h60 : ¬ t < 60 := by omega
  simp [roundF, roundK, h20, h40, h60]

/-- The word `W[t]` of a block (R94). -/
def scheduleWord (b : List Byte) (t : Nat) : Word := (schedule (blockWords b)).getD t 0

/-- The variables before round `t` of the compression of a block (R96). -/
def roundVars (h : Chain) (b : List Byte) (t : Nat) : Chain :=
  sha1Rounds 0 ((schedule (blockWords b)).take t) h

theorem scheduleWord_of_lt {t : Nat} (ht : t < 16) (b : List Byte) :
    scheduleWord b t = b.getD (4 * t) 0 ++ b.getD (4 * t + 1) 0 ++ b.getD (4 * t + 2) 0 ++
      b.getD (4 * t + 3) 0 := by
  rw [scheduleWord, List.getD_eq_getElem?_getD, schedule_getElem?_of_lt (blockWords_length b) ht,
    blockWords_getElem? ht, Option.getD_some]

theorem scheduleWord_of_ge {t : Nat} (h16 : 16 ≤ t) (h80 : t < 80) (b : List Byte) :
    scheduleWord b t = (scheduleWord b (t - 3) ^^^ scheduleWord b (t - 8) ^^^
      scheduleWord b (t - 14) ^^^ scheduleWord b (t - 16)).rotateLeft 1 := by
  rw [← rotl_eq_rotateLeft (by decide)]
  exact schedule_getD (blockWords_length b) h16 h80

theorem roundVars_succ {t : Nat} (ht : t < 80) (h : Chain) (b : List Byte) :
    roundVars h b (t + 1) = sha1Round t (scheduleWord b t) (roundVars h b t) := by
  have hlt : t < (schedule (blockWords b)).length := by
    rwa [schedule_length (blockWords_length b)]
  have hword : scheduleWord b t = (schedule (blockWords b))[t] := List.getD_eq_getElem _ _ hlt
  rw [roundVars, ← List.take_append_getElem hlt, sha1Rounds_append,
    List.length_take_of_le hlt.le, Nat.zero_add, hword]
  rfl

theorem compress_eq (h : Chain) (b : List Byte) :
    compress h b = ⟨h.a + (roundVars h b 80).a, h.b + (roundVars h b 80).b,
      h.c + (roundVars h b 80).c, h.d + (roundVars h b 80).d, h.e + (roundVars h b 80).e⟩ := by
  rw [roundVars, List.take_of_length_le (schedule_length (blockWords_length b)).le]
  rfl

theorem sha1Round_eq (t : Nat) (w : Word) (v : Chain) :
    sha1Round t w v = ⟨v.a.rotateLeft 5 + roundF t v.b v.c v.d + v.e + roundK t + w, v.a,
      v.b.rotateLeft 30, v.c, v.d⟩ := by
  rw [sha1Round, rotl_eq_rotateLeft (by decide), rotl_eq_rotateLeft (by decide)]

/-- Settles O49: the schedule's words and the variables before each round. -/
theorem compressionRunsTheEightyRounds : Obligations.CompressionRunsTheEightyRounds := by
  unfold Obligations.CompressionRunsTheEightyRounds
  intro h b _
  refine ⟨scheduleWord b, roundVars h b, fun t ht => scheduleWord_of_lt ht b,
    fun t h16 h80 => scheduleWord_of_ge h16 h80 b, rfl, fun t ht => ?round, compress_eq h b⟩
  case round =>
    exact ⟨_, _, fun h19 => roundF_roundK_of_le_19 h19 ..,
      fun h20 h39 => roundF_roundK_of_le_39 h20 h39 ..,
      fun h40 h59 => roundF_roundK_of_le_59 h40 h59 .., fun h60 => roundF_roundK_of_ge_60 h60 ..,
      (roundVars_succ ht h b).trans (sha1Round_eq ..)⟩

/-! ### The chaining and the hash (R93, R97) -/

/-- The chaining value after the first `i` blocks of the padded message. -/
def chainAfter (m : List Byte) (i : Nat) : Chain :=
  ((sha1Blocks ((sha1Pad m).length / 64) (sha1Pad m)).take i).foldl compress sha1Init

theorem chainAfter_succ {m : List Byte} {i : Nat} (hi : i < (sha1Pad m).length / 64) :
    chainAfter m (i + 1) = compress (chainAfter m i) (((sha1Pad m).drop (64 * i)).take 64) := by
  rw [chainAfter, List.take_add_one, sha1Blocks_getElem? hi, List.foldl_append]
  rfl

theorem sha1Chain_eq_chainAfter (m : List Byte) :
    sha1Chain m = chainAfter m ((sha1Pad m).length / 64) := by
  rw [chainAfter, List.take_of_length_le (sha1Blocks_length ..).le, sha1Chain]

theorem Chain.getElem_words (h : Chain) (k : Fin 5) : [h.a, h.b, h.c, h.d, h.e][k] = h.word k := by
  fin_cases k <;> rfl

/-- Byte `j` of the word `k` of a chaining value (R97). -/
theorem Chain.bytes_getElem (h : Chain) (k : Fin 5) (j : Fin 4) :
    h.bytes[4 * k.val + j.val] = wordByte (h.word k) j := by
  simp only [Chain.bytes, Vector.getElem_ofFn]
  congr 2 <;> omega

theorem sha1_eq (m : List Byte) : sha1 m = (sha1Chain m).bytes := by rw [sha1]

/-- Settles O50: the chaining values are those after each number of blocks. -/
theorem hashChainsTheBlocks : Obligations.HashChainsTheBlocks := by
  unfold Obligations.HashChainsTheBlocks
  intro m _
  refine ⟨(sha1Pad m).length / 64, chainAfter m, ?length, rfl, fun i hi => chainAfter_succ hi,
    fun k j => ?byte⟩
  case length => rw [sha1Pad_length]; omega
  case byte =>
    rw [Chain.getElem_words, ← sha1Chain_eq_chainAfter, sha1_eq, Chain.bytes_getElem, wordByte]

/-! ### HMAC (R105) -/

theorem exec_hmac_of_no_key {s : State} (h : s.klen = 0) :
    exec .hmac s = .next (enterFault .keyempty 0x00000010#32 s) := if_pos h

theorem exec_hmac_of_key {s : State} (h : s.klen ≠ 0) :
    exec .hmac s =
      .next (invalidate .selected { s with digest := hmacSha1 s.key s.text, dv := true }) := if_neg h

/-- Settles O9: the two branches of the command. -/
theorem hmacComputesTheDigest : Obligations.HmacComputesTheDigest := by
  unfold Obligations.HmacComputesTheDigest
  exact ⟨decode_encode .hmac, fun _ => exec_hmac_of_no_key, fun _ => exec_hmac_of_key⟩

end Sys2Proof.Machine
end

section
/-! The byte selector and TRUNC, the modular-reduction unit and MODR (spec 42_truncate_modred.md): R109 to
R118. -/

namespace Sys2Proof.Machine

/-! ### Concatenation and masking as arithmetic (R9, R111) -/

theorem toNat_append_eq_add {n m : Nat} (x : BitVec n) (y : BitVec m) :
    (x ++ y).toNat = x.toNat * 2 ^ m + y.toNat := by
  rw [BitVec.toNat_append, ← Nat.shiftLeft_add_eq_or_of_lt y.isLt, Nat.shiftLeft_eq]

/-- `BE32` as a number (R9). -/
theorem be32_toNat (b0 b1 b2 b3 : Byte) :
    (be32 b0 b1 b2 b3).toNat =
      b0.toNat * 2 ^ 24 + b1.toNat * 2 ^ 16 + b2.toNat * 2 ^ 8 + b3.toNat := by
  simp only [be32, toNat_append_eq_add]
  omega

/-- Clearing bit 31 and keeping 31 bits is the remainder by `2^31` (R111). -/
theorem masked_toNat (w : Word) : ((w &&& 0x7FFFFFFF#32).setWidth 31).toNat = w.toNat % 2 ^ 31 := by
  have hmask : (w &&& 0x7FFFFFFF#32).toNat = w.toNat % 2 ^ 31 :=
    (BitVec.toNat_and ..).trans (Nat.and_two_pow_sub_one_eq_mod w.toNat 31)
  rw [BitVec.toNat_setWidth, hmask, Nat.mod_mod]

/-- The mask acts on the most significant byte alone (R111). -/
theorem be32_toNat_mod (b0 b1 b2 b3 : Byte) :
    (be32 b0 b1 b2 b3).toNat % 2 ^ 31 =
      b0.toNat % 128 * 2 ^ 24 + b1.toNat * 2 ^ 16 + b2.toNat * 2 ^ 8 + b3.toNat := by
  have h1 := b1.isLt
  have h2 := b2.isLt
  have h3 := b3.isLt
  rw [be32_toNat]
  omega

/-! ### The byte selector (R109 to R112) -/

theorem selectOffset_toNat (d : Vector Byte 20) : (selectOffset d).toNat = d[19].toNat % 16 := by
  simp [selectOffset]

/-- The bytes R110 reads, by their places in the digest as a list. -/
theorem selectRaw_eq (d : Vector Byte 20) :
    selectRaw d = be32 (d.toList.getD (selectOffset d).toNat 0)
      (d.toList.getD ((selectOffset d).toNat + 1) 0) (d.toList.getD ((selectOffset d).toNat + 2) 0)
      (d.toList.getD ((selectOffset d).toNat + 3) 0) := by
  have hbyte (i : Nat) (hi : i < 20) : d.toList.getD i 0 = d[i] := by
    rw [List.getD_eq_getElem _ _ (by simpa using hi), Vector.getElem_toList]
  have ho := (selectOffset d).isLt
  rw [selectRaw, hbyte _ (by omega), hbyte _ (by omega), hbyte _ (by omega), hbyte _ (by omega)]

/-- Settles O53: the raw word is the four bytes at the offset, of which the mask takes bit 31. -/
theorem selectIsTheMaskedBigEndianValue : Obligations.SelectIsTheMaskedBigEndianValue := by
  unfold Obligations.SelectIsTheMaskedBigEndianValue
  intro d
  refine ⟨(selectOffset d).toNat, selectOffset_toNat d, ?bound, rfl, ?sel⟩
  case bound => have := (selectOffset d).isLt; omega
  case sel => rw [select, masked_toNat, selectRaw_eq, be32_toNat_mod]

/-! ### TRUNC (R113) -/

theorem exec_trunc_of_no_digest {s : State} (h : s.dv = false) :
    exec .trunc s = .next (enterFault .seq 0x00000011#32 s) := if_pos h

theorem exec_trunc_of_digest {s : State} (h : s.dv = true) :
    exec .trunc s = .next (invalidate .code
      { s with offset := (select s.digest).1, sel := (select s.digest).2, sv := true }) :=
  if_neg (by simp [h])

/-- Settles O10: the two branches of the command. -/
theorem truncSelectsTheValue : Obligations.TruncSelectsTheValue := by
  unfold Obligations.TruncSelectsTheValue
  exact ⟨decode_encode .trunc, fun _ => exec_trunc_of_no_digest, fun _ => exec_trunc_of_digest⟩

/-! ### The modular-reduction unit (R114 to R116) -/

theorem timesTen_eq_pow (n : Nat) : timesTen n = 10 ^ n := by
  induction n with
  | zero => rfl
  | succ n ih => rw [timesTen, ih, Nat.pow_succ]

theorem modulus_eq_pow (d : Nat) : modulus d = 10 ^ min d 8 := timesTen_eq_pow _

theorem modRed_eq_mod_pow (p d : Nat) : modRed p d = p % 10 ^ min d 8 := by
  rw [modRed, modulus_eq_pow]

theorem modRed_lt_modulus (p d : Nat) : modRed p d < modulus d := Nat.mod_lt _ (timesTen_pos _)

/-- The remainder by `10^n` keeps the last `n` decimal digits (R116). -/
theorem digit_mod_pow {i n : Nat} (h : i < n) (p : Nat) :
    p % 10 ^ n / 10 ^ i % 10 = p / 10 ^ i % 10 := by
  obtain ⟨k, rfl⟩ := Nat.exists_eq_add_of_lt h
  calc p % 10 ^ (i + k + 1) / 10 ^ i % 10
      = p % (10 ^ i * 10 ^ (k + 1)) / 10 ^ i % 10 := by rw [← Nat.pow_add, Nat.add_assoc]
    _ = p / 10 ^ i % 10 ^ (k + 1) % 10 := by rw [Nat.mod_mul_right_div_self]
    _ = p / 10 ^ i % 10 := Nat.mod_mod_of_dvd _ (Dvd.intro_left _ (Nat.pow_succ ..).symm)

/-- Settles O54: the loop of R114 computes the power, and the digits are those of a remainder by it. -/
theorem reductionKeepsTheLowDigits : Obligations.ReductionKeepsTheLowDigits := by
  unfold Obligations.ReductionKeepsTheLowDigits
  intro p d
  refine ⟨modulus_eq_pow d, modRed_eq_mod_pow p d, modRed_lt_modulus p d, fun i hi => ?_⟩
  rw [modRed_eq_mod_pow, digit_mod_pow hi]

/-! ### MODR (R117) -/

/-- The modulus fits the 27 bits of the code (R26). -/
theorem modulus_lt (d : Nat) : modulus d < 2 ^ 27 :=
  calc modulus d = 10 ^ min d 8 := modulus_eq_pow d
    _ ≤ 10 ^ 8 := Nat.pow_le_pow_right (by decide) (min_le_right ..)
    _ < 2 ^ 27 := by decide

theorem codeOf_toNat (p : BitVec 31) (d : BitVec 4) :
    (codeOf p d).toNat = modRed p.toNat d.toNat := by
  rw [codeOf, BitVec.toNat_ofNat,
    Nat.mod_eq_of_lt ((modRed_lt_modulus ..).trans (modulus_lt _))]

/-- Of a digit count that is at most 8 the clamp of R114 leaves the power as it is. -/
theorem codeOf_toNat_of_le {d : BitVec 4} (h : d.toNat ≤ 8) (p : BitVec 31) :
    (codeOf p d).toNat = p.toNat % 10 ^ d.toNat := by
  rw [codeOf_toNat, modRed_eq_mod_pow, min_eq_left h]

theorem exec_modr_of_no_selected {s : State} (h : s.sv = false) :
    exec .modr s = .next (enterFault .seq 0x00000012#32 s) := if_pos h

theorem exec_modr_of_selected {s : State} (h : s.sv = true) :
    exec .modr s =
      if s.digitsOk = false then .next (enterFault .digits 0x00000012#32 s)
      else .next (invalidate .out { s with code := codeOf s.sel s.digits, cv := true }) :=
  if_neg (by simp [h])

/-- Settles O11: the three branches of the command, and the code as a remainder by the power of ten. -/
theorem modrReducesTheValue : Obligations.ModrReducesTheValue := by
  unfold Obligations.ModrReducesTheValue
  refine ⟨decode_encode .modr, fun _ => exec_modr_of_no_selected, fun s hsv hdigits => ?digits,
    fun s hsv hlo hhi => ?code⟩
  case digits => rw [exec_modr_of_selected hsv, if_pos (digitsOk_eq_false.2 hdigits)]
  case code =>
    have hcode := codeOf_toNat_of_le hhi s.sel
    refine ⟨codeOf s.sel s.digits, hcode, hcode ▸ Nat.mod_lt _ (by positivity), ?_⟩
    rw [exec_modr_of_selected hsv, digitsOk_iff.2 ⟨hlo, hhi⟩]
    rfl

end Sys2Proof.Machine
end

section
/-! The zero-pad formatter and FMT (spec 43_format.md): R119 to R123. -/

namespace Sys2Proof.Machine

/-! ### Digit characters (R119, R120) -/

theorem digitChar_eq_ofNat (v : Nat) : digitChar v = BitVec.ofNat 8 (0x30 + v) :=
  (BitVec.ofNat_add ..).symm

theorem digitChar_toNat {v : Nat} (h : v < 10) : (digitChar v).toNat = 0x30 + v := by
  rw [digitChar_eq_ofNat, BitVec.toNat_ofNat]
  omega

/-- The digit at position `k` is what remains when the digits before it are taken off (R119). -/
theorem ten_mul_div_add_decDigit {k n : Nat} (h : k < n) (c : Nat) :
    10 * (c / 10 ^ (n - k)) + decDigit c n k = c / 10 ^ (n - (k + 1)) := by
  have hexp : n - k = n - (k + 1) + 1 := by omega
  have hpos : n - 1 - k = n - (k + 1) := by omega
  rw [decDigit, hpos, hexp, Nat.pow_succ, ← Nat.div_div_eq_div_mul, Nat.div_add_mod]

/-! ### The string (R121, R123) -/

/-- The number a string of digit characters denotes in decimal. -/
def decimalValue (bs : List Byte) : Nat := bs.foldl (fun acc b => 10 * acc + (b.toNat - 0x30)) 0

theorem decimalValue_append_digitChar {v : Nat} (h : v < 10) (bs : List Byte) :
    decimalValue (bs ++ [digitChar v]) = 10 * decimalValue bs + v := by
  simp [decimalValue, digitChar_toNat h]

section
variable {c n : Nat} (hdom : 1 ≤ n ∧ n ≤ 8 ∧ c < 10 ^ n)
include hdom

theorem fmt_getElem (i : Fin 8) :
    (fmt c n)[i] = if i.val < n then digitChar (decDigit c n i.val) else 0x00#8 := by
  rw [fmt_of_domain hdom]
  exact Vector.getElem_ofFn ..

theorem fmt_getElem_of_lt {i : Fin 8} (h : i.val < n) :
    (fmt c n)[i] = digitChar (decDigit c n i.val) := by rw [fmt_getElem hdom, if_pos h]

theorem fmt_getElem_of_ge {i : Fin 8} (h : n ≤ i.val) : (fmt c n)[i] = 0x00#8 := by
  rw [fmt_getElem hdom, if_neg (Nat.not_lt.2 h)]

/-- Each character of the string is appended to those before it. -/
theorem fmt_take_succ {k : Nat} (hk : k < n) :
    (fmt c n).toList.take (k + 1) = (fmt c n).toList.take k ++ [digitChar (decDigit c n k)] := by
  have ⟨_, hhi, _⟩ := hdom
  have hk8 : k < 8 := hk.trans_le hhi
  have hlt : k < (fmt c n).toList.length := by simpa using hk8
  rw [← fmt_getElem_of_lt hdom (i := ⟨k, hk8⟩) hk, ← List.take_append_getElem hlt,
    Vector.getElem_toList]
  rfl

/-- The first `k` characters denote the code without its last `n - k` digits. -/
theorem decimalValue_fmt_take {k : Nat} (hk : k ≤ n) :
    decimalValue ((fmt c n).toList.take k) = c / 10 ^ (n - k) := by
  have ⟨_, _, hc⟩ := hdom
  induction k with
  | zero => exact (Nat.div_eq_of_lt hc).symm
  | succ k ih =>
    rw [fmt_take_succ hdom hk, decimalValue_append_digitChar (decDigit_lt c n k), ih (by omega),
      ten_mul_div_add_decDigit hk]

end

/-- Settles O55: each character is a digit's, and the prefixes of the string denote the leading digits of
the code, the whole string the whole code. -/
theorem formattedStringDenotesTheCode : Obligations.FormattedStringDenotesTheCode := by
  unfold Obligations.FormattedStringDenotesTheCode
  intro c n hlo hhi hc
  have hdom : 1 ≤ n ∧ n ≤ 8 ∧ c < 10 ^ n := ⟨hlo, hhi, hc⟩
  refine ⟨fun i hi => ?char, fun i hi => fmt_getElem_of_ge hdom hi, ?value⟩
  case char =>
    have hdigit := decDigit_lt c n i.val
    rw [fmt_getElem_of_lt hdom hi, digitChar_toNat hdigit]
    exact ⟨rfl, by omega, by omega⟩
  case value =>
    calc decimalValue ((fmt c n).toList.take n) = c / 10 ^ (n - n) :=
          decimalValue_fmt_take hdom le_rfl
      _ = c := by rw [Nat.sub_self, Nat.pow_zero, Nat.div_one]

/-! ### FMT (R122) -/

theorem exec_fmt_of_no_code {s : State} (h : s.cv = false) :
    exec .fmt s = .next (enterFault .seq 0x00000013#32 s) := if_pos h

theorem exec_fmt_of_code {s : State} (h : s.cv = true) :
    exec .fmt s =
      .next { s with out := fmt s.code.toNat s.digits.toNat, outlen := s.digits, ov := true } :=
  if_neg (by simp [h])

/-- Settles O12: the two branches of the command, and R121's bytes on its domain. -/
theorem fmtWritesTheString : Obligations.FmtWritesTheString := by
  unfold Obligations.FmtWritesTheString
  refine ⟨decode_encode .fmt, fun _ => exec_fmt_of_no_code, fun _ hcv => ⟨_, exec_fmt_of_code hcv⟩,
    fun s hcv hlo hhi hc => ⟨_, fun i => ?byte, exec_fmt_of_code hcv⟩⟩
  case byte => rw [fmt_getElem ⟨hlo, hhi, hc⟩, digitChar_eq_ofNat, decDigit]

end Sys2Proof.Machine
end

section
/-! The composite command HOTP (spec 44_hotp.md): R125, and its equivalence with the four commands HMAC,
TRUNC, MODR, FMT (R126). -/

namespace Sys2Proof.Machine

/-! ### HOTP (R125) -/

theorem exec_hotp_of_no_key {s : State} (h : s.klen = 0) :
    exec .hotp s = .next (enterFault .keyempty 0x0000001F#32 s) := if_pos h

theorem exec_hotp_of_invalid_digits {s : State} (hkey : s.klen ≠ 0) (hdigits : s.digitsOk = false) :
    exec .hotp s = .next (enterFault .digits 0x0000001F#32 s) :=
  (if_neg hkey).trans (if_pos hdigits)

theorem exec_hotp_of_valid_digits {s : State} (hkey : s.klen ≠ 0) (hdigits : s.digitsOk = true) :
    exec .hotp s = .next (hotpResult s) :=
  (if_neg hkey).trans (if_neg (ne_false_of_eq_true hdigits))

/-- Settles O13: the three branches of the command, and the code as a remainder by the power of ten. -/
theorem hotpComputesEveryStage : Obligations.HotpComputesEveryStage := by
  unfold Obligations.HotpComputesEveryStage
  exact ⟨decode_encode .hotp, fun _ => exec_hotp_of_no_key,
    fun _ hkey hdigits => exec_hotp_of_invalid_digits hkey (digitsOk_eq_false.2 hdigits),
    fun _ hkey hlo hhi => ⟨_, _, _, rfl, rfl, codeOf_toNat_of_le hhi _,
      exec_hotp_of_valid_digits hkey (digitsOk_iff.2 ⟨hlo, hhi⟩)⟩⟩

/-! ### The states the four commands leave when they raise no fault -/

/-- After HMAC (R105). -/
def hmacResult (s : State) : State :=
  invalidate .selected { s with digest := hmacSha1 s.key s.text, dv := true }

/-- After TRUNC (R113). -/
def truncResult (s : State) : State :=
  invalidate .code { s with offset := (select s.digest).1, sel := (select s.digest).2, sv := true }

/-- After MODR (R117). -/
def modrResult (s : State) : State :=
  invalidate .out { s with code := codeOf s.sel s.digits, cv := true }

/-- After FMT (R122). -/
def fmtResult (s : State) : State :=
  { s with out := fmt s.code.toNat s.digits.toNat, outlen := s.digits, ov := true }

@[simp] theorem hmacResult_ecode (s : State) : (hmacResult s).ecode = s.ecode := rfl
@[simp] theorem hmacResult_digitsOk (s : State) : (hmacResult s).digitsOk = s.digitsOk := rfl
@[simp] theorem hmacResult_dv (s : State) : (hmacResult s).dv = true := rfl
@[simp] theorem truncResult_ecode (s : State) : (truncResult s).ecode = s.ecode := rfl
@[simp] theorem truncResult_digitsOk (s : State) : (truncResult s).digitsOk = s.digitsOk := rfl
@[simp] theorem truncResult_sv (s : State) : (truncResult s).sv = true := rfl
@[simp] theorem modrResult_ecode (s : State) : (modrResult s).ecode = s.ecode := rfl
@[simp] theorem modrResult_cv (s : State) : (modrResult s).cv = true := rfl
@[simp] theorem hotpResult_ecode (s : State) : (hotpResult s).ecode = s.ecode := rfl

/-- Each command computes its stage from the stage before it, as HOTP does, and what a command clears a
later one sets (R126). -/
theorem fmtResult_modrResult_truncResult_hmacResult (s : State) :
    fmtResult (modrResult (truncResult (hmacResult s))) = hotpResult s := by
  ext1 <;> simp [fmtResult, modrResult, truncResult, hmacResult, hotpResult]

/-! ### Fault entry forgets what was computed (R133) -/

@[simp] theorem enterFault_hmacResult (f : FaultCode) (x : Word) (s : State) :
    enterFault f x (hmacResult s) = enterFault f x s := rfl

@[simp] theorem enterFault_truncResult (f : FaultCode) (x : Word) (s : State) :
    enterFault f x (truncResult s) = enterFault f x s := rfl

/-- Two entries to the same fault differ in EINFO alone. -/
theorem enterFault_eq_with_einfo (f : FaultCode) (x y : Word) (s : State) :
    enterFault f x s = { enterFault f y s with einfo := x } := rfl

/-! ### The four words written to CMD (R62, R126) -/

/-- Once a command has faulted, the rest of the sequence is ignored (R60). -/
theorem memWrite_enterFault_of_ne_clr (f : FaultCode) (x : Word) (s : State) {d : Word}
    (hd : d ≠ 0x00000001#32) :
    memWrite 0x00#8 d (enterFault f x s) = .next (enterFault f x s) :=
  memWrite_frozen_of_ne_clr (enterFault_frozen f x s) _ hd

section
variable {s : State} (hecode : s.ecode = 0#4)
include hecode

/-- `memWrite_encode` with the condition as R126 writes it. -/
theorem memWrite_encode_of_ecode (i : Instr) : memWrite 0x00#8 (encode i) s = exec i s :=
  memWrite_encode (frozen_eq_false.2 hecode) i

theorem memWrite_hmac_of_no_key (hkey : s.klen = 0) :
    memWrite 0x00#8 0x00000010#32 s = .next (enterFault .keyempty 0x00000010#32 s) :=
  (memWrite_encode_of_ecode hecode .hmac).trans (exec_hmac_of_no_key hkey)

theorem memWrite_hmac_of_key (hkey : s.klen ≠ 0) :
    memWrite 0x00#8 0x00000010#32 s = .next (hmacResult s) :=
  (memWrite_encode_of_ecode hecode .hmac).trans (exec_hmac_of_key hkey)

theorem memWrite_trunc_of_digest (hdv : s.dv = true) :
    memWrite 0x00#8 0x00000011#32 s = .next (truncResult s) :=
  (memWrite_encode_of_ecode hecode .trunc).trans (exec_trunc_of_digest hdv)

theorem memWrite_modr_of_invalid_digits (hsv : s.sv = true) (hdigits : s.digitsOk = false) :
    memWrite 0x00#8 0x00000012#32 s = .next (enterFault .digits 0x00000012#32 s) :=
  (memWrite_encode_of_ecode hecode .modr).trans
    ((exec_modr_of_selected hsv).trans (if_pos hdigits))

theorem memWrite_modr_of_valid_digits (hsv : s.sv = true) (hdigits : s.digitsOk = true) :
    memWrite 0x00#8 0x00000012#32 s = .next (modrResult s) :=
  (memWrite_encode_of_ecode hecode .modr).trans
    ((exec_modr_of_selected hsv).trans (if_neg (ne_false_of_eq_true hdigits)))

theorem memWrite_fmt_of_code (hcv : s.cv = true) :
    memWrite 0x00#8 0x00000013#32 s = .next (fmtResult s) :=
  (memWrite_encode_of_ecode hecode .fmt).trans (exec_fmt_of_code hcv)

end

/-- Settles O14: without a key the first command faults, with an invalid digit count the third, and the
rest of the sequence is ignored; otherwise the four results compose to HOTP's. -/
theorem hotpEqualsTheFourCommands : Obligations.HotpEqualsTheFourCommands := by
  unfold Obligations.HotpEqualsTheFourCommands
  intro s hecode
  have hhotp : memWrite 0x00#8 0x0000001F#32 s = exec .hotp s := memWrite_encode_of_ecode hecode .hotp
  by_cases hkey : s.klen = 0
  · have hhmac := memWrite_hmac_of_no_key hecode hkey
    have hignored {d : Word} (hd : d ≠ 0x00000001#32) :=
      memWrite_enterFault_of_ne_clr .keyempty 0x00000010#32 s hd
    exact ⟨_, _, _, _, _, hhmac, hignored (by decide), hignored (by decide), hignored (by decide),
      hhotp.trans (exec_hotp_of_no_key hkey), fun h => absurd hkey h,
      fun _ => ⟨rfl, rfl, enterFault_eq_with_einfo ..⟩, fun h => absurd hkey h⟩
  · have hhmac := memWrite_hmac_of_key hecode hkey
    have htrunc := memWrite_trunc_of_digest (s := hmacResult s) (by simpa) (by simp)
    cases hdigits : s.digitsOk with
    | false =>
      have hmodr := memWrite_modr_of_invalid_digits (s := truncResult (hmacResult s))
        (by simpa) (by simp) (by simpa)
      rw [enterFault_truncResult, enterFault_hmacResult] at hmodr
      have hfmt := memWrite_enterFault_of_ne_clr .digits 0x00000012#32 s
        (d := 0x00000013#32) (by decide)
      have hinvalid := digitsOk_eq_false.1 hdigits
      exact ⟨_, _, _, _, _, hhmac, htrunc, hmodr, hfmt,
        hhotp.trans (exec_hotp_of_invalid_digits hkey hdigits), fun _ hlo hhi => by omega,
        fun h => absurd h hkey,
        fun _ _ => ⟨by simpa, truncResult_sv _, rfl, rfl, enterFault_eq_with_einfo ..⟩⟩
    | true =>
      have hmodr := memWrite_modr_of_valid_digits (s := truncResult (hmacResult s))
        (by simpa) (by simp) (by simpa)
      have hfmt := memWrite_fmt_of_code (s := modrResult (truncResult (hmacResult s)))
        (by simpa) (by simp)
      rw [fmtResult_modrResult_truncResult_hmacResult] at hfmt
      have hvalid := digitsOk_iff.1 hdigits
      exact ⟨_, _, _, _, _, hhmac, htrunc, hmodr, hfmt,
        hhotp.trans (exec_hotp_of_valid_digits hkey hdigits), fun _ _ _ => ⟨rfl, by simpa⟩,
        fun h => absurd h hkey, fun _ hinvalid => by omega⟩

end Sys2Proof.Machine
end

section
/-! Faults (spec 60_exceptions.md): which event raises which fault (R131, R132), fault entry (R133) and
its precision (R134), the frozen state and its end (R136 to R138), what a read that raises no fault
returns (R140). -/

namespace Sys2Proof.Machine

/-! ### Fault entry (R130, R133) -/

/-- Settles O37: `raise` is fault entry, and its fields are read off. -/
theorem faultEntryClearsTheStages : Obligations.FaultEntryClearsTheStages := by
  unfold Obligations.FaultEntryClearsTheStages
  exact ⟨⟨rfl, rfl, rfl, rfl, rfl, rfl, rfl⟩, fun _ _ _ => rfl⟩

/-! ### The step of a write and of a read (R48) -/

theorem step_of_write {s : State} {a : Offset} {d : Word} {q : List Event}
    (h : s.pending = .write a d :: q) : step s = memWrite a d (accept q s) := by
  simp only [step, h, perform]

theorem step_of_read {s : State} {a : Offset} {q : List Event} (h : s.pending = .read a :: q) :
    step s = .next { (memRead a (accept q s)).1 with rdata := some (memRead a (accept q s)).2 } := by
  simp only [step, h, perform]

/-! ### The frozen state (R136 to R138) -/

/-- Settles O40: the reset step, and R60's and R61's equations for a write and a read while frozen. -/
theorem frozenLeftOnlyByClrOrReset : Obligations.FrozenLeftOnlyByClrOrReset := by
  unfold Obligations.FrozenLeftOnlyByClrOrReset
  intro s t e q hq hs h
  have hf : (accept q s).frozen = true := frozen_eq_true.2 hs
  cases e with
  | reset =>
    rw [step_of_reset hq] at h
    cases h
    exact ⟨fun _ => ⟨none, rfl⟩, fun hne => absurd rfl hne⟩
  | write a d =>
    rw [step_of_write hq, memWrite_frozen hf] at h
    split at h <;> cases h
    · next hclr => exact ⟨fun _ => ⟨none, rfl⟩, fun _ hne => absurd (by simp [hclr]) hne⟩
    · next hclr => exact ⟨fun he => absurd (by simpa using he) hclr, fun _ _ => ⟨none, rfl⟩⟩
  | read a =>
    rw [step_of_read hq, memRead_frozen hf] at h
    cases h
    exact ⟨fun he => absurd he (by simp), fun _ _ => ⟨_, rfl⟩⟩

/-- The first fault stays recorded until the core is no longer frozen (R138). -/
theorem step_keeps_first_fault {s t : State} {e : Event} {q : List Event} (hq : s.pending = e :: q)
    (hs : s.ecode ≠ 0#4) (h : step s = .next t) :
    t.ecode = 0#4 ∨ (t.ecode = s.ecode ∧ t.einfo = s.einfo) := by
  obtain ⟨hleft, hkept⟩ := frozenLeftOnlyByClrOrReset s t e q hq hs h
  by_cases he : e = .reset ∨ e = .write 0x00#8 0x00000001#32
  · obtain ⟨r, rfl⟩ := hleft he
    exact .inl rfl
  · obtain ⟨hreset, hclr⟩ := not_or.1 he
    obtain ⟨r, rfl⟩ := hkept hreset hclr
    exact .inr ⟨rfl, rfl⟩

/-! ### The offsets of the address faults (R132) -/

/-- The twenty registers stand at the first twenty aligned offsets (R16). -/
theorem regAt_four_mul_ne_none : ∀ k < 20, regAt (BitVec.ofNat 8 (4 * k)) ≠ none := by decide

/-- An offset that names no register is misaligned or unmapped (R49, R56). -/
theorem misaligned_or_unmapped_of_regAt_eq_none {a : Offset} (h : regAt a = none) :
    misaligned a = true ∨ unmapped a = true := by
  by_contra hno
  rw [not_or, misaligned_eq_true, unmapped_eq_true, not_not] at hno
  obtain ⟨haligned, hmapped⟩ := hno
  have hmod : a.toNat % 4 = 0 := by simpa using congrArg BitVec.toNat haligned
  have ha : a = BitVec.ofNat 8 (4 * (a.toNat / 4)) := by
    rw [Nat.mul_div_cancel' (Nat.dvd_of_mod_eq_zero hmod), BitVec.ofNat_toNat, BitVec.setWidth_eq]
  exact regAt_four_mul_ne_none (a.toNat / 4) (by omega) (ha ▸ h)

theorem BadRead.offset {a : Offset} (h : BadRead a) :
    a.extractLsb' 0 2 ≠ 0#2 ∨ 0x50 ≤ a.toNat ∨ a = 0x00#8 ∨ a = 0x10#8 := by
  rw [← misaligned_eq_true, ← unmapped_eq_true]
  obtain hm | hu | hn | ⟨r, hwo, rfl⟩ := h
  · exact .inl hm
  · exact .inr (.inl hu)
  · exact (misaligned_or_unmapped_of_regAt_eq_none hn).imp_right .inl
  · cases r <;> simp_all [regAccess, regOffset]

theorem BadWrite.offset {a : Offset} (h : BadWrite a) :
    a.extractLsb' 0 2 ≠ 0#2 ∨ 0x50 ≤ a.toNat ∨
      a ∈ [0x04#8, 0x08#8, 0x0C#8, 0x14#8, 0x24#8, 0x28#8, 0x2C#8, 0x30#8, 0x34#8, 0x38#8, 0x3C#8,
        0x40#8, 0x44#8, 0x48#8, 0x4C#8] := by
  rw [← misaligned_eq_true, ← unmapped_eq_true, mem_readOnlyOffsets]
  obtain hm | hu | hn | hro := h
  · exact .inl hm
  · exact .inr (.inl hu)
  · exact (misaligned_or_unmapped_of_regAt_eq_none hn).imp_right .inl
  · exact .inr (.inr hro)

/-- The offsets of the result registers (R68). -/
theorem mem_resultOffsets {a : Offset} :
    a ∈ [0x24#8, 0x28#8, 0x2C#8, 0x30#8, 0x34#8, 0x38#8, 0x3C#8, 0x40#8, 0x44#8, 0x48#8, 0x4C#8] ↔
      ∃ r, (∃ st, regStage r = some st) ∧ a = regOffset r := by
  change a ∈ (regList.filter fun r => (regStage r).isSome).map regOffset ↔ _
  simp [mem_regList, Option.isSome_iff_exists, @eq_comm _ a]

/-! ### Which event can raise which fault (R131, R132) -/

/-- The faults a command can raise. -/
inductive CommandFault : Instr → FaultCode → Prop where
  | hmac_keyempty : CommandFault .hmac .keyempty
  | trunc_seq : CommandFault .trunc .seq
  | modr_seq : CommandFault .modr .seq
  | modr_digits : CommandFault .modr .digits
  | fmt_seq : CommandFault .fmt .seq
  | hotp_keyempty : CommandFault .hotp .keyempty
  | hotp_digits : CommandFault .hotp .digits

/-- The faults a write of the word `d` to the offset `a` can raise, with the information recorded. -/
inductive WriteFault (a : Offset) (d : Word) : FaultCode → Word → Prop where
  | bus (ha : BadWrite a) : WriteFault a d .bus (busWriteInfo a)
  | keyovf (ha : a = 0x10#8) : WriteFault a d .keyovf 0x00000110#32
  | illcmd (ha : a = 0x00#8) (hd : ∃ u, decode d = .error u) : WriteFault a d .illcmd d
  | command {i : Instr} {f : FaultCode} (ha : a = 0x00#8) (hd : d = encode i)
      (hf : CommandFault i f) : WriteFault a d f d

/-- The faults a read at the offset `a` can raise. -/
inductive ReadFault (a : Offset) : FaultCode → Prop where
  | bus (ha : BadRead a) : ReadFault a .bus
  | rdinv {r : Reg} {st : Stage} (hst : regStage r = some st) (ha : a = regOffset r) :
      ReadFault a .rdinv

/-- The faults an event can raise, with the information recorded and the word returned. -/
inductive EventFault : Event → FaultCode → Word → Option Word → Prop where
  | write {a : Offset} {d : Word} {f : FaultCode} {x : Word} (h : WriteFault a d f x) :
      EventFault (.write a d) f x none
  | read {a : Offset} {f : FaultCode} (h : ReadFault a f) :
      EventFault (.read a) f (readInfo a) (some 0x00000000#32)

/-- A command that leaves the core frozen did nothing but enter one of its faults. -/
theorem exec_fault {i : Instr} {s t : State} (hs : s.ecode = 0#4) (h : exec i s = .next t)
    (ht : t.ecode ≠ 0#4) : ∃ f, CommandFault i f ∧ t = enterFault f (encode i) s := by
  cases i with
  | nop => cases h; exact absurd hs ht
  | clr => cases h; exact absurd rfl ht
  | keyclr => cases h; exact absurd hs ht
  | hmac =>
    obtain ⟨-, rfl⟩ | ⟨-, rfl⟩ := execHmac_cases h
    · exact ⟨_, .hmac_keyempty, rfl⟩
    · exact absurd hs ht
  | trunc =>
    obtain ⟨-, rfl⟩ | ⟨-, rfl⟩ := execTrunc_cases h
    · exact ⟨_, .trunc_seq, rfl⟩
    · exact absurd hs ht
  | modr =>
    obtain ⟨-, rfl⟩ | ⟨-, -, rfl⟩ | ⟨-, -, rfl⟩ := execModr_cases h
    · exact ⟨_, .modr_seq, rfl⟩
    · exact ⟨_, .modr_digits, rfl⟩
    · exact absurd hs ht
  | fmt =>
    obtain ⟨-, rfl⟩ | ⟨-, rfl⟩ := execFmt_cases h
    · exact ⟨_, .fmt_seq, rfl⟩
    · exact absurd hs ht
  | hotp =>
    obtain ⟨-, rfl⟩ | ⟨-, -, rfl⟩ | ⟨-, -, rfl⟩ := execHotp_cases h
    · exact ⟨_, .hotp_keyempty, rfl⟩
    · exact ⟨_, .hotp_digits, rfl⟩
    · exact absurd hs ht

/-- A write that leaves the core frozen did nothing but enter one of its faults. -/
theorem memWrite_fault {a : Offset} {d : Word} {s t : State} (hs : s.ecode = 0#4)
    (h : memWrite a d s = .next t) (ht : t.ecode ≠ 0#4) :
    ∃ f x, WriteFault a d f x ∧ t = enterFault f x s := by
  obtain ⟨hf, -⟩ | ⟨hf, -⟩ | ⟨-, ha, rfl⟩ | ⟨-, ha, hword⟩ | ⟨-, ha, hpush⟩ | ⟨-, -, rfl⟩ |
    ⟨-, -, rfl⟩ | ⟨-, -, rfl⟩ := memWrite_cases h
  case inl | inr.inl => exact absurd hs (frozen_eq_true.1 hf)
  · exact ⟨_, _, .bus ha, rfl⟩
  · obtain ⟨i, hi, hexec⟩ | ⟨u, hu, rfl⟩ := execWord_cases hword
    · obtain rfl := eq_encode_of_decode hi
      obtain ⟨f, hcommand, rfl⟩ := exec_fault hs hexec ht
      exact ⟨f, _, .command ha rfl hcommand, rfl⟩
    · exact ⟨_, _, .illcmd ha ⟨u, hu⟩, rfl⟩
  · obtain ⟨-, rfl⟩ | ⟨-, rfl⟩ := pushKey_cases hpush
    · exact ⟨_, _, .keyovf ha, rfl⟩
    · exact absurd hs ht
  -- the operand writes CTR_HI, CTR_LO and DIGITS raise none
  all_goals exact absurd hs ht

/-- A read that leaves the core frozen returned 0 and did nothing but enter one of its faults. -/
theorem memRead_fault {a : Offset} {s : State} (hs : s.ecode = 0#4)
    (ht : (memRead a s).1.ecode ≠ 0#4) :
    ∃ f, ReadFault a f ∧ memRead a s = (enterFault f (readInfo a) s, 0x00000000#32) := by
  obtain ⟨-, h⟩ | ⟨-, ha, h⟩ | ⟨-, r, w, -, -, -, h⟩ | ⟨-, r, w, st, -, -, -, -, h⟩ |
    ⟨-, r, st, ha, hst, -, h⟩ := memRead_cases a s
  · exact absurd hs (by rwa [h] at ht)
  · exact ⟨_, .bus ha, h⟩
  · exact absurd hs (by rwa [h] at ht)
  · exact absurd hs (by rwa [h] at ht)
  · exact ⟨_, .rdinv hst ha, h⟩

/-- A step that leaves the core frozen did nothing but enter one of its event's faults. -/
theorem step_fault {s t : State} {e : Event} {q : List Event} (hq : s.pending = e :: q)
    (hs : s.ecode = 0#4) (h : step s = .next t) (ht : t.ecode ≠ 0#4) :
    ∃ f x r, EventFault e f x r ∧ t = { enterFault f x (accept q s) with rdata := r } := by
  have hs : (accept q s).ecode = 0#4 := hs
  cases e with
  | write a d =>
    rw [step_of_write hq] at h
    obtain ⟨f, x, hfault, rfl⟩ := memWrite_fault hs h ht
    exact ⟨f, x, none, .write hfault, rfl⟩
  | read a =>
    rw [step_of_read hq] at h
    cases h
    obtain ⟨f, hfault, hread⟩ := memRead_fault hs ht
    exact ⟨f, _, _, .read hfault, by rw [hread]⟩
  | reset =>
    rw [step_of_reset hq] at h
    cases h
    exact absurd rfl ht

/-! ### Faults are precise (R131, R134) -/

theorem CommandFault.code_mem {i : Instr} {f : FaultCode} (h : CommandFault i f) :
    f.code ∈ [FaultCode.illcmd.code, FaultCode.keyempty.code, FaultCode.digits.code,
      FaultCode.seq.code] := by
  cases h <;> decide

/-- What ERR and EINFO show after a faulting write (R131). -/
theorem WriteFault.info {a : Offset} {d x : Word} {f : FaultCode} (h : WriteFault a d f x) :
    (f.code = FaultCode.bus.code ∧ x = 0x100#32 ||| a.setWidth 32) ∨
    (f.code = FaultCode.keyovf.code ∧ a = 0x10#8 ∧ x = 0x110#32) ∨
    (f.code ∈ [FaultCode.illcmd.code, FaultCode.keyempty.code, FaultCode.digits.code,
        FaultCode.seq.code] ∧ a = 0x00#8 ∧ x = d) := by
  cases h with
  | bus _ => exact .inl ⟨rfl, rfl⟩
  | keyovf ha => exact .inr (.inl ⟨rfl, ha, rfl⟩)
  | illcmd ha _ => exact .inr (.inr ⟨by decide, ha, rfl⟩)
  | command ha _ hf => exact .inr (.inr ⟨hf.code_mem, ha, rfl⟩)

theorem ReadFault.code_eq {a : Offset} {f : FaultCode} (h : ReadFault a f) :
    f.code = FaultCode.bus.code ∨ f.code = FaultCode.rdinv.code := by
  cases h with
  | bus _ => exact .inl rfl
  | rdinv _ _ => exact .inr rfl

/-- Settles O38: the step is fault entry in the state that has accepted the event, with what its event
records and returns. -/
theorem faultsArePrecise : Obligations.FaultsArePrecise := by
  unfold Obligations.FaultsArePrecise
  intro s t e q hq hs h ht
  obtain ⟨f, x, r, hfault, rfl⟩ := step_fault hq hs h ht
  refine ⟨fun a he => ?read, fun a d he => ?write, ?frame⟩
  case read =>
    subst he
    cases hfault with
    | read hread => exact ⟨rfl, hread.code_eq, rfl⟩
  case write =>
    subst he
    cases hfault with
    | write hwrite => exact hwrite.info
  case frame => ext1 <;> simp

/-! ### The table of R132 -/

theorem ReadFault.cause {a : Offset} {f : FaultCode} (h : ReadFault a f) :
    (f.code = FaultCode.bus.code ∧
      (a.extractLsb' 0 2 ≠ 0#2 ∨ 0x50 ≤ a.toNat ∨ a = 0x00#8 ∨ a = 0x10#8)) ∨
    (f.code = FaultCode.rdinv.code ∧
      a ∈ [0x24#8, 0x28#8, 0x2C#8, 0x30#8, 0x34#8, 0x38#8, 0x3C#8, 0x40#8, 0x44#8, 0x48#8,
        0x4C#8]) := by
  cases h with
  | bus ha => exact .inl ⟨rfl, ha.offset⟩
  | rdinv hst ha => exact .inr ⟨rfl, mem_resultOffsets.2 ⟨_, ⟨_, hst⟩, ha⟩⟩

theorem CommandFault.cause {i : Instr} {f : FaultCode} (h : CommandFault i f) :
    (f = .keyempty ∧ (i = .hmac ∨ i = .hotp)) ∨
    (f = .seq ∧ (i = .trunc ∨ i = .modr ∨ i = .fmt)) ∨
    (f = .digits ∧ (i = .modr ∨ i = .hotp)) := by
  cases h <;> simp

theorem WriteFault.cause {a : Offset} {d x : Word} {f : FaultCode} (h : WriteFault a d f x) :
    (f.code = FaultCode.bus.code ∧
      (a.extractLsb' 0 2 ≠ 0#2 ∨ 0x50 ≤ a.toNat ∨
        a ∈ [0x04#8, 0x08#8, 0x0C#8, 0x14#8, 0x24#8, 0x28#8, 0x2C#8, 0x30#8, 0x34#8, 0x38#8, 0x3C#8,
          0x40#8, 0x44#8, 0x48#8, 0x4C#8])) ∨
    (f.code = FaultCode.keyovf.code ∧ a = 0x10#8) ∨
    (f.code = FaultCode.illcmd.code ∧ a = 0x00#8 ∧ ∃ u, decode d = .error u) ∨
    (f.code = FaultCode.keyempty.code ∧ a = 0x00#8 ∧ (d = encode .hmac ∨ d = encode .hotp)) ∨
    (f.code = FaultCode.seq.code ∧ a = 0x00#8 ∧
      (d = encode .trunc ∨ d = encode .modr ∨ d = encode .fmt)) ∨
    (f.code = FaultCode.digits.code ∧ a = 0x00#8 ∧ (d = encode .modr ∨ d = encode .hotp)) := by
  cases h with
  | bus ha => exact .inl ⟨rfl, ha.offset⟩
  | keyovf ha => exact .inr (.inl ⟨rfl, ha⟩)
  | illcmd ha hd => exact .inr (.inr (.inl ⟨rfl, ha, hd⟩))
  | command ha hd hf =>
    subst hd
    refine .inr (.inr (.inr ?_))
    obtain ⟨rfl, hi⟩ | ⟨rfl, hi⟩ | ⟨rfl, hi⟩ := hf.cause
    · exact .inl ⟨rfl, ha, hi.imp (congrArg encode) (congrArg encode)⟩
    · exact .inr (.inl ⟨rfl, ha,
        hi.imp (congrArg encode) (Or.imp (congrArg encode) (congrArg encode))⟩)
    · exact .inr (.inr ⟨rfl, ha, hi.imp (congrArg encode) (congrArg encode)⟩)

/-- Settles O39: while frozen the first fault is kept; otherwise the step entered a fault of its event,
whose cause is a line of R132's table. -/
theorem faultsRaisedByEachEvent : Obligations.FaultsRaisedByEachEvent := by
  unfold Obligations.FaultsRaisedByEachEvent
  refine ⟨fun s t e q hq hs h => step_keeps_first_fault hq hs h, fun s t e q hq hs h ht => ?_⟩
  obtain ⟨f, x, r, hfault, rfl⟩ := step_fault hq hs h ht
  cases hfault with
  | write hwrite => exact .inr ⟨_, _, rfl, hwrite.cause⟩
  | read hread => exact .inl ⟨_, rfl, hread.cause⟩

/-! ### What a read that raises no fault returns (R140) -/

/-- A read of a result register that leaves the core not frozen found the stage valid, changed nothing
and returned the register's value (R68). -/
theorem memRead_result_of_no_fault {s t : State} {w : Word} {r : Reg} {st : Stage}
    (hs : s.ecode = 0#4) (hst : regStage r = some st) (h : memRead (regOffset r) s = (t, w))
    (ht : t.ecode = 0#4) : s.valid st = true ∧ t = s ∧ regView r s = some w := by
  have hf := frozen_eq_false.2 hs
  cases hval : s.valid st with
  | false =>
    rw [memRead_of_not_valid hf hst hval] at h
    cases h
    exact absurd (frozen_eq_false.2 ht) (by simp)
  | true =>
    obtain ⟨v, hv⟩ := exists_regView (regAccess_of_regStage hst) s
    rw [memRead_of_valid hf hst hval hv] at h
    cases h
    exact ⟨rfl, rfl, hv⟩

/-- A valid out stage holds the string of the code of the operands (R41). -/
theorem CoreInv.out_eq {s : State} (hs : CoreInv s) (hov : s.ov = true) :
    s.out = fmt ((select (hmacSha1 s.key s.text)).2.toNat % 10 ^ s.digits.toNat) s.digits.toNat := by
  obtain ⟨hcv, -, hout⟩ := hs.out_ok hov
  rw [hout, hs.code_toNat_eq hcv]

/-- Settles O43: the stage read is valid, and by the invariant it holds the value of the operands. -/
theorem readCodeIsTheOperandsCode : Obligations.ReadCodeIsTheOperandsCode := by
  unfold Obligations.ReadCodeIsTheOperandsCode
  intro s hinv hs p c o
  refine ⟨fun t w h ht => ?code, fun t w h ht => ?out0, fun t w h ht => ?out1,
    fun t w h ht => ?outLen⟩
  case code =>
    obtain ⟨hcv, rfl, hw⟩ := memRead_result_of_no_fault hs rfl h ht
    obtain rfl := Option.some.inj hw
    refine ⟨rfl, ?_⟩
    rw [BitVec.toNat_setWidth_of_le (by decide)]
    exact hinv.code_toNat_eq hcv
  case out0 | out1 =>
    obtain ⟨hov, rfl, hw⟩ := memRead_result_of_no_fault hs rfl h ht
    obtain rfl := Option.some.inj hw
    have hout : t.out = o := hinv.out_eq hov
    exact ⟨rfl, by rw [← hout]; rfl⟩
  case outLen =>
    obtain ⟨hov, rfl, hw⟩ := memRead_result_of_no_fault hs rfl h ht
    obtain rfl := Option.some.inj hw
    obtain ⟨-, hlen, -⟩ := hinv.out_ok hov
    refine ⟨rfl, ?_⟩
    rw [BitVec.toNat_setWidth_of_le (by decide), hlen]

end Sys2Proof.Machine
end

section
/-! Reset (spec 70_reset_and_hazards.md): the hardware reset and CLR from every state (R149, R151), and
what the port reads after it (R150). -/

namespace Sys2Proof.Machine

/-- Settles O2: the reset event and CLR are both the reset of every field, frozen or not. -/
theorem hardwareResetFromEveryState : Obligations.HardwareResetFromEveryState := by
  unfold Obligations.HardwareResetFromEveryState
  exact ⟨fun s q h => ⟨none, step_of_reset h⟩, fun s => ⟨s.rdata, exec_clr s⟩⟩

/-! ### Reads after reset (R150) -/

/-- After reset every register that is read in any state shows 0. -/
theorem regView_reset (k : Nat) (q : List Event) (x : Option Word) {r : Reg}
    (h : readInAnyState r = true) :
    regView r { State.resetTo k with pending := q, rdata := x } = some 0x00000000#32 := by
  cases r with
  | status => simp [regView, statusWord, State.frozen, State.resetTo]
  | err | einfo | klen | digits => rfl
  | ctrHi | ctrLo => exact congrArg some BitVec.extractLsb'_zero
  | _ => cases h

/-- After reset no stage is valid. -/
theorem valid_reset (k : Nat) (q : List Event) (x : Option Word) (st : Stage) :
    State.valid { State.resetTo k with pending := q, rdata := x } st = false := by
  cases st <;> rfl

/-- Settles O3: the registers of the first list are read in any state and show 0; those of the second
each belong to a stage, and no stage is valid. -/
theorem readsAfterReset : Obligations.ReadsAfterReset := by
  unfold Obligations.ReadsAfterReset
  rintro k q x _ r rfl
  refine ⟨fun hr => ?anyState, fun hr => ?result⟩
  case anyState =>
    have hany : readInAnyState r = true :=
      (by decide : ∀ r ∈ [Reg.status, .err, .einfo, .klen, .ctrHi, .ctrLo, .digits],
        readInAnyState r = true) r hr
    exact memRead_of_readInAnyState hany (regView_reset k q x hany)
  case result =>
    have hstage : (regStage r).isSome = true := by
      revert r
      decide
    obtain ⟨st, hst⟩ := Option.isSome_iff_exists.1 hstage
    exact memRead_of_not_valid rfl hst (valid_reset k q x st)

end Sys2Proof.Machine
end

section
/-! The invariant of the reachable states (spec 10_state.md section 11): it holds at reset, and every
operation of the port keeps it (R37 to R44). -/

namespace Sys2Proof.Machine

/-! ### The key buffer (R13, R44) -/

/-- The clauses of the invariant that speak of the parameter and the key buffer alone. -/
structure KeyBufferInv (s : State) : Prop where
  keyMax_pos : 1 ≤ s.keyMax
  keyMax_le : s.keyMax ≤ Config.keyMaxLimit
  keybuf_length : s.keybuf.length = s.keyMax
  klen_le : s.klen ≤ s.keyMax
  keybuf_tail : ∀ i, s.klen ≤ i → i < s.keyMax → s.keybuf[i]? = some 0x00#8

theorem CoreInv.keyBuffer {s : State} (hs : CoreInv s) : KeyBufferInv s := { hs with }

/-- A buffer that is zeroised and holds no key (R37, R88). -/
theorem KeyBufferInv.of_no_key {s : State} (hpos : 1 ≤ s.keyMax) (hle : s.keyMax ≤ 65535)
    (hbuf : s.keybuf = List.replicate s.keyMax 0x00#8) (hklen : s.klen = 0) : KeyBufferInv s where
  keyMax_pos := hpos
  keyMax_le := hle
  keybuf_length := by rw [hbuf, List.length_replicate]
  klen_le := by omega
  keybuf_tail := fun i _ hi => by rw [hbuf, List.getElem?_replicate_of_lt hi]

/-- A push into a buffer with room writes the first free place (R63). -/
theorem KeyBufferInv.push {s : State} (hs : KeyBufferInv s) (hroom : s.klen ≠ s.keyMax) (b : Byte) :
    KeyBufferInv { s with keybuf := s.keybuf.set s.klen b, klen := s.klen + 1 } where
  keyMax_pos := hs.keyMax_pos
  keyMax_le := hs.keyMax_le
  keybuf_length := (List.length_set ..).trans hs.keybuf_length
  klen_le := Nat.lt_of_le_of_ne hs.klen_le hroom
  keybuf_tail := fun i hlo hi => by
    have hlo : s.klen < i := hlo
    rw [List.getElem?_set_ne hlo.ne]
    exact hs.keybuf_tail i hlo.le hi

/-- With every stage clear, the key buffer and EINFO are all that is left to check. -/
theorem KeyBufferInv.coreInv_invalidate_digest {s : State} (hs : KeyBufferInv s)
    (hinfo : einfoOk s.ecode s.einfo) : CoreInv (invalidate .digest s) :=
  { hs with
    digest_ok := by simp
    selected_ok := by simp
    code_ok := by simp
    out_ok := by simp
    frozen_clear := by simp
    digest_clear := by simp
    selected_clear := by simp
    code_clear := by simp
    out_clear := by simp
    einfo_ok := hinfo }

/-! ### Reset (R37) -/

theorem coreInv_resetTo {k : Nat} (hpos : 1 ≤ k) (hle : k ≤ 65535) : CoreInv (State.resetTo k) :=
  KeyBufferInv.coreInv_invalidate_digest (s := State.resetTo k) (.of_no_key hpos hle rfl rfl)
    (.inl ⟨rfl, rfl⟩)

/-- Settles O4: all stages are clear, the buffer holds no key, and there is no fault. -/
theorem resetStateSatisfiesInvariant : Obligations.ResetStateSatisfiesInvariant := by
  unfold Obligations.ResetStateSatisfiesInvariant
  exact ⟨coreInv_resetTo (by decide) (by decide), fun k hpos hle => coreInv_resetTo hpos hle⟩

/-! ### The layout of EINFO (R131) -/

theorem CommandFault.einfoOk {i : Instr} {f : FaultCode} (h : CommandFault i f) :
    einfoOk f.code (encode i) := by
  cases h <;> simp [Machine.einfoOk, FaultCode.code]

theorem WriteFault.einfoOk {a : Offset} {d x : Word} {f : FaultCode} (h : WriteFault a d f x) :
    einfoOk f.code x := by
  cases h with
  | bus _ => exact .inr (.inr (.inl ⟨rfl, a, .inr rfl⟩))
  | keyovf _ => exact .inr (.inr (.inr (.inl ⟨rfl, rfl⟩)))
  | illcmd _ hd => exact .inr (.inl ⟨rfl, hd⟩)
  | command _ hd hf => exact hd ▸ hf.einfoOk

theorem ReadFault.einfoOk {a : Offset} {f : FaultCode} (h : ReadFault a f) :
    einfoOk f.code (readInfo a) := by
  cases h with
  | bus _ => exact .inr (.inr (.inl ⟨rfl, a, .inl rfl⟩))
  | rdinv hst ha => exact ha ▸ .inr (.inr (.inr (.inr (.inr (.inr (.inr ⟨rfl, _, _, hst, rfl⟩))))))

/-! ### The operations keep the invariant -/

section
variable {s : State} (hs : CoreInv s)
include hs

/-- The invariant says nothing of the port's own fields. -/
theorem CoreInv.with_port (q : List Event) (r : Option Word) :
    CoreInv { s with pending := q, rdata := r } := { hs with }

theorem CoreInv.resetFields : CoreInv (resetFields s) :=
  (coreInv_resetTo hs.keyMax_pos hs.keyMax_le).with_port s.pending s.rdata

theorem CoreInv.enterFault {f : FaultCode} {x : Word} (hinfo : einfoOk f.code x) :
    CoreInv (enterFault f x s) :=
  KeyBufferInv.coreInv_invalidate_digest (s := { s with ecode := f.code, einfo := x })
    { hs with } hinfo

theorem CoreInv.keyclr :
    CoreInv (invalidate .digest { s with keybuf := List.replicate s.keyMax 0x00#8, klen := 0 }) :=
  KeyBufferInv.coreInv_invalidate_digest (.of_no_key hs.keyMax_pos hs.keyMax_le rfl rfl) hs.einfo_ok

theorem CoreInv.push (hroom : s.klen ≠ s.keyMax) (b : Byte) :
    CoreInv (invalidate .digest
      { s with keybuf := s.keybuf.set s.klen b, klen := s.klen + 1 }) :=
  (hs.keyBuffer.push hroom b).coreInv_invalidate_digest hs.einfo_ok

/-- A new counter leaves no stage valid (R64, R65). -/
theorem CoreInv.with_ctr (c : Counter) : CoreInv (invalidate .digest { s with ctr := c }) :=
  KeyBufferInv.coreInv_invalidate_digest { hs with } hs.einfo_ok

/-- A new digit count leaves the two stages that do not depend on it (R66). -/
theorem CoreInv.writeDigits (d : Word) : CoreInv (writeDigits d s) :=
  { hs with
    code_ok := nofun
    out_ok := nofun
    frozen_clear := fun h => by
      obtain ⟨hdv, hsv, -, -⟩ := hs.frozen_clear h
      exact ⟨hdv, hsv, rfl, rfl⟩
    code_clear := fun _ => rfl
    out_clear := fun _ => ⟨rfl, rfl⟩ }

/-- HMAC sets the digest of the operands and clears the later stages (R38, R105). -/
theorem CoreInv.hmacResult (hecode : s.ecode = 0#4) (hkey : s.klen ≠ 0) : CoreInv (hmacResult s) :=
  { hs with
    digest_ok := fun _ => ⟨hecode, Nat.one_le_iff_ne_zero.2 hkey, rfl⟩
    selected_ok := nofun
    code_ok := nofun
    out_ok := nofun
    frozen_clear := fun h => absurd hecode h
    digest_clear := nofun
    selected_clear := fun _ => ⟨rfl, rfl⟩
    code_clear := fun _ => rfl
    out_clear := fun _ => ⟨rfl, rfl⟩ }

/-- TRUNC sets the selection of the digest and clears the later stages (R39, R113). -/
theorem CoreInv.truncResult (hdv : s.dv = true) : CoreInv (truncResult s) :=
  { hs with
    selected_ok := fun _ => ⟨hdv, rfl⟩
    code_ok := nofun
    out_ok := nofun
    frozen_clear := fun h => absurd (hs.digest_ok hdv).1 h
    selected_clear := nofun
    code_clear := fun _ => rfl
    out_clear := fun _ => ⟨rfl, rfl⟩ }

/-- A valid selected value needs a digest, and so a core that is not frozen (R38, R39). -/
theorem CoreInv.ecode_of_sv (hsv : s.sv = true) : s.ecode = 0#4 :=
  (hs.digest_ok (hs.selected_ok hsv).1).1

/-- MODR sets the remainder of the selected value and clears the out stage (R40, R117). -/
theorem CoreInv.modrResult (hsv : s.sv = true) (hdigits : s.digitsOk = true) :
    CoreInv (modrResult s) := by
  obtain ⟨hlo, hhi⟩ := digitsOk_iff.1 hdigits
  have hcode := codeOf_toNat_of_le hhi s.sel
  exact
    { hs with
      code_ok := fun _ => ⟨hsv, hlo, hhi, hcode, hcode.trans_lt (Nat.mod_lt _ (by positivity))⟩
      out_ok := nofun
      frozen_clear := fun h => absurd (hs.ecode_of_sv hsv) h
      code_clear := nofun
      out_clear := fun _ => ⟨rfl, rfl⟩ }

/-- FMT sets the string of the code (R41, R122). -/
theorem CoreInv.fmtResult (hcv : s.cv = true) : CoreInv (fmtResult s) :=
  { hs with
    out_ok := fun _ => ⟨hcv, rfl, rfl⟩
    frozen_clear := fun h => absurd (hs.ecode_of_sv (hs.code_ok hcv).1) h
    out_clear := nofun }

/-- HOTP leaves what the four commands leave in a row (R126), so the invariant too. -/
theorem CoreInv.hotpResult (hecode : s.ecode = 0#4) (hkey : s.klen ≠ 0)
    (hdigits : s.digitsOk = true) : CoreInv (hotpResult s) := by
  rw [← fmtResult_modrResult_truncResult_hmacResult]
  have htrunc := (hs.hmacResult hecode hkey).truncResult (hmacResult_dv s)
  exact (htrunc.modrResult (truncResult_sv _) (by simpa)).fmtResult (modrResult_cv _)

theorem CoreInv.exec {i : Instr} {t : State} (hecode : s.ecode = 0#4) (h : exec i s = .next t) :
    CoreInv t := by
  cases i with
  | nop => cases h; exact hs
  | clr => cases h; exact hs.resetFields
  | keyclr => cases h; exact hs.keyclr
  | hmac =>
    obtain ⟨-, rfl⟩ | ⟨hkey, rfl⟩ := execHmac_cases h
    · exact hs.enterFault CommandFault.hmac_keyempty.einfoOk
    · exact hs.hmacResult hecode hkey
  | trunc =>
    obtain ⟨-, rfl⟩ | ⟨hdv, rfl⟩ := execTrunc_cases h
    · exact hs.enterFault CommandFault.trunc_seq.einfoOk
    · exact hs.truncResult hdv
  | modr =>
    obtain ⟨-, rfl⟩ | ⟨-, -, rfl⟩ | ⟨hsv, hdigits, rfl⟩ := execModr_cases h
    · exact hs.enterFault CommandFault.modr_seq.einfoOk
    · exact hs.enterFault CommandFault.modr_digits.einfoOk
    · exact hs.modrResult hsv hdigits
  | fmt =>
    obtain ⟨-, rfl⟩ | ⟨hcv, rfl⟩ := execFmt_cases h
    · exact hs.enterFault CommandFault.fmt_seq.einfoOk
    · exact hs.fmtResult hcv
  | hotp =>
    obtain ⟨-, rfl⟩ | ⟨-, -, rfl⟩ | ⟨hkey, hdigits, rfl⟩ := execHotp_cases h
    · exact hs.enterFault CommandFault.hotp_keyempty.einfoOk
    · exact hs.enterFault CommandFault.hotp_digits.einfoOk
    · exact hs.hotpResult hecode hkey hdigits

theorem CoreInv.memWrite {a : Offset} {d : Word} {t : State} (h : memWrite a d s = .next t) :
    CoreInv t := by
  obtain ⟨-, -, -, rfl⟩ | ⟨-, -, rfl⟩ | ⟨-, ha, rfl⟩ | ⟨hf, ha, hword⟩ | ⟨-, ha, hpush⟩ |
    ⟨-, -, rfl⟩ | ⟨-, -, rfl⟩ | ⟨-, -, rfl⟩ := memWrite_cases h
  · exact hs.resetFields
  · exact hs
  · exact hs.enterFault (WriteFault.bus (d := d) ha).einfoOk
  · obtain ⟨i, -, hexec⟩ | ⟨u, hu, rfl⟩ := execWord_cases hword
    · exact hs.exec (frozen_eq_false.1 hf) hexec
    · exact hs.enterFault (WriteFault.illcmd ha ⟨u, hu⟩).einfoOk
  · obtain ⟨-, rfl⟩ | ⟨hroom, rfl⟩ := pushKey_cases hpush
    · exact hs.enterFault (WriteFault.keyovf (d := d) ha).einfoOk
    · exact hs.push hroom _
  · exact hs.with_ctr _
  · exact hs.with_ctr _
  · exact hs.writeDigits d

theorem CoreInv.memRead (a : Offset) : CoreInv (memRead a s).1 := by
  obtain ⟨-, h⟩ | ⟨-, ha, h⟩ | ⟨-, r, w, -, -, -, h⟩ | ⟨-, r, w, st, -, -, -, -, h⟩ |
    ⟨-, r, st, ha, hst, -, h⟩ := memRead_cases a s <;> rw [h]
  case inr.inl => exact hs.enterFault (ReadFault.bus ha).einfoOk
  case inr.inr.inr.inr => exact hs.enterFault (ReadFault.rdinv hst ha).einfoOk
  -- the three reads that raise no fault leave the state as it is
  all_goals exact hs

end

/-- Settles O5: the next event is a write, a read or a reset, and each keeps the invariant; the port's
own fields play no part in it. -/
theorem everyStepKeepsInvariant : Obligations.EveryStepKeepsInvariant := by
  unfold Obligations.EveryStepKeepsInvariant
  intro s t hs h
  obtain ⟨-, rfl⟩ | ⟨a, d, q, -, hwrite⟩ | ⟨a, q, -, rfl⟩ | ⟨q, -, rfl⟩ := step_cases h
  · exact hs
  · exact (hs.with_port q none).memWrite hwrite
  · exact ((hs.with_port q none).memRead a).with_port _ _
  · exact (hs.with_port q none).resetFields

end Sys2Proof.Machine
end

section
/-! Two runs of the port on the same event (spec R48, R144): a relation between states that every
operation of the port keeps is kept by every step. From it come the independence from the port's own
fields (R48) and from the key's bytes (R144). -/

namespace Sys2Proof.Machine

/-! ### What a read returns -/

theorem regAccess_of_regView {r : Reg} {s : State} {w : Word} (h : regView r s = some w) :
    regAccess r ≠ .wo := fun hwo => by simp [(regView_isNone r s).2 hwo] at h

/-- A register that belongs to no stage returns its value (R67). -/
theorem memRead_of_no_stage {s : State} (hf : s.frozen = false) {r : Reg} {w : Word}
    (hst : regStage r = none) (hw : regView r s = some w) : memRead (regOffset r) s = (s, w) := by
  simp [memRead_regOffset hf, regRead, hw, hst]

/-- While frozen the same word is read in two states whose registers of R61 show the same. -/
theorem frozenRead_congr {s t : State} {a : Offset}
    (h : ∀ r, a = regOffset r → readInAnyState r = true → regView r s = regView r t) :
    frozenRead a s = frozenRead a t := by
  unfold frozenRead
  split
  · next r hr =>
    split
    · next hany => rw [h r (regOffset_of_regAt hr) hany]
    · rfl
  · rfl

/-! ### Relations that every operation keeps -/

/-- Both outcomes are next states, and related ones. -/
def RelNext (R : State → State → Prop) (o p : Host.Outcome State Fault Refusal) : Prop :=
  ∃ s t, o = .next s ∧ p = .next t ∧ R s t

/-- A relation between states that decides every branch of the port alike and is kept by every update of
the state that the port makes. -/
structure PortRel (R : State → State → Prop) : Prop where
  keyMax {s t : State} : R s t → s.keyMax = t.keyMax
  klen {s t : State} : R s t → s.klen = t.klen
  digits {s t : State} : R s t → s.digits = t.digits
  valid {s t : State} : R s t → ∀ st, s.valid st = t.valid st
  ecode {s t : State} : R s t → s.ecode = t.ecode
  resetFields {s t : State} : R s t → R (resetFields s) (resetFields t)
  enterFault {s t : State} (f : FaultCode) (x : Word) : R s t → R (enterFault f x s) (enterFault f x t)
  keyclr {s t : State} : R s t →
    R (invalidate .digest { s with keybuf := List.replicate s.keyMax 0x00#8, klen := 0 })
      (invalidate .digest { t with keybuf := List.replicate t.keyMax 0x00#8, klen := 0 })
  hmacResult {s t : State} : R s t → R (hmacResult s) (hmacResult t)
  truncResult {s t : State} : R s t → R (truncResult s) (truncResult t)
  modrResult {s t : State} : R s t → R (modrResult s) (modrResult t)
  fmtResult {s t : State} : R s t → R (fmtResult s) (fmtResult t)
  push {s t : State} (b : Byte) : R s t →
    R (invalidate .digest { s with keybuf := s.keybuf.set s.klen b, klen := s.klen + 1 })
      (invalidate .digest { t with keybuf := t.keybuf.set t.klen b, klen := t.klen + 1 })
  writeCtrHi {s t : State} (d : Word) : R s t → R (writeCtrHi d s) (writeCtrHi d t)
  writeCtrLo {s t : State} (d : Word) : R s t → R (writeCtrLo d s) (writeCtrLo d t)
  writeDigits {s t : State} (d : Word) : R s t → R (writeDigits d s) (writeDigits d t)

section
variable {R : State → State → Prop} (hR : PortRel R) {s t : State} (hst : R s t)
include hR hst

theorem PortRel.frozen : s.frozen = t.frozen := by rw [State.frozen, State.frozen, hR.ecode hst]

theorem PortRel.digitsOk : s.digitsOk = t.digitsOk := by
  rw [State.digitsOk, State.digitsOk, hR.digits hst]

/-- The stages of HOTP are those of the four commands (R126). -/
theorem PortRel.hotpResult : R (hotpResult s) (hotpResult t) := by
  rw [← fmtResult_modrResult_truncResult_hmacResult, ← fmtResult_modrResult_truncResult_hmacResult]
  exact hR.fmtResult (hR.modrResult (hR.truncResult (hR.hmacResult hst)))

/-- The two states take the same branch of a command. -/
theorem PortRel.exec (i : Instr) : RelNext R (exec i s) (exec i t) := by
  have hklen := hR.klen hst
  have hdigits := hR.digitsOk hst
  have hdv : s.dv = t.dv := hR.valid hst .digest
  have hsv : s.sv = t.sv := hR.valid hst .selected
  have hcv : s.cv = t.cv := hR.valid hst .code
  cases i with
  | nop => exact ⟨_, _, rfl, rfl, hst⟩
  | clr => exact ⟨_, _, rfl, rfl, hR.resetFields hst⟩
  | keyclr => exact ⟨_, _, rfl, rfl, hR.keyclr hst⟩
  | hmac =>
    by_cases h : s.klen = 0
    · exact ⟨_, _, exec_hmac_of_no_key h, exec_hmac_of_no_key (hklen ▸ h), hR.enterFault _ _ hst⟩
    · exact ⟨_, _, exec_hmac_of_key h, exec_hmac_of_key (hklen ▸ h), hR.hmacResult hst⟩
  | trunc =>
    cases h : s.dv with
    | false =>
      exact ⟨_, _, exec_trunc_of_no_digest h, exec_trunc_of_no_digest (hdv ▸ h),
        hR.enterFault _ _ hst⟩
    | true =>
      exact ⟨_, _, exec_trunc_of_digest h, exec_trunc_of_digest (hdv ▸ h), hR.truncResult hst⟩
  | modr =>
    cases h : s.sv with
    | false =>
      exact ⟨_, _, exec_modr_of_no_selected h, exec_modr_of_no_selected (hsv ▸ h),
        hR.enterFault _ _ hst⟩
    | true =>
      rw [exec_modr_of_selected h, exec_modr_of_selected (hsv ▸ h), ← hdigits]
      split
      · exact ⟨_, _, rfl, rfl, hR.enterFault _ _ hst⟩
      · exact ⟨_, _, rfl, rfl, hR.modrResult hst⟩
  | fmt =>
    cases h : s.cv with
    | false =>
      exact ⟨_, _, exec_fmt_of_no_code h, exec_fmt_of_no_code (hcv ▸ h), hR.enterFault _ _ hst⟩
    | true => exact ⟨_, _, exec_fmt_of_code h, exec_fmt_of_code (hcv ▸ h), hR.fmtResult hst⟩
  | hotp =>
    by_cases h : s.klen = 0
    · exact ⟨_, _, exec_hotp_of_no_key h, exec_hotp_of_no_key (hklen ▸ h), hR.enterFault _ _ hst⟩
    · cases hok : s.digitsOk with
      | false =>
        exact ⟨_, _, exec_hotp_of_invalid_digits h hok,
          exec_hotp_of_invalid_digits (hklen ▸ h) (hdigits ▸ hok), hR.enterFault _ _ hst⟩
      | true =>
        exact ⟨_, _, exec_hotp_of_valid_digits h hok,
          exec_hotp_of_valid_digits (hklen ▸ h) (hdigits ▸ hok), hR.hotpResult hst⟩

theorem PortRel.execWord (d : Word) : RelNext R (execWord d s) (execWord d t) := by
  by_cases hd : ∃ i, decode d = .ok i
  · obtain ⟨i, hi⟩ := hd
    obtain rfl := eq_encode_of_decode hi
    rw [execWord_encode, execWord_encode]
    exact hR.exec hst i
  · exact ⟨_, _, execWord_of_not_command hd s, execWord_of_not_command hd t,
      hR.enterFault _ _ hst⟩

theorem PortRel.pushKey (d : Word) : RelNext R (pushKey d s) (pushKey d t) := by
  by_cases hfull : s.klen = s.keyMax
  · have hfull' : t.klen = t.keyMax := hR.klen hst ▸ hR.keyMax hst ▸ hfull
    exact ⟨_, _, pushKey_of_full hfull d, pushKey_of_full hfull' d, hR.enterFault _ _ hst⟩
  · have hroom' : t.klen ≠ t.keyMax := hR.klen hst ▸ hR.keyMax hst ▸ hfull
    exact ⟨_, _, pushKey_of_not_full hfull d, pushKey_of_not_full hroom' d, hR.push _ hst⟩

theorem PortRel.memWrite (a : Offset) (d : Word) : RelNext R (memWrite a d s) (memWrite a d t) := by
  have hfrozen := hR.frozen hst
  obtain ⟨s', hs'⟩ := memWrite_total a d s
  obtain ⟨hf, hclr⟩ | ⟨hf, hclr, -⟩ | ⟨hf, ha, -⟩ | ⟨hf, rfl, -⟩ | ⟨hf, rfl, -⟩ | ⟨hf, rfl, -⟩ |
    ⟨hf, rfl, -⟩ | ⟨hf, rfl, -⟩ := memWrite_cases hs'
  case inl =>
    obtain ⟨rfl, rfl, -⟩ := hclr
    exact ⟨_, _, memWrite_clr s, memWrite_clr t, hR.resetFields hst⟩
  all_goals have hf' : t.frozen = _ := hfrozen ▸ hf
  · rw [memWrite_frozen hf, memWrite_frozen hf', if_neg hclr, if_neg hclr]
    exact ⟨_, _, rfl, rfl, hst⟩
  · exact ⟨_, _, memWrite_of_badWrite hf ha d, memWrite_of_badWrite hf' ha d,
      hR.enterFault _ _ hst⟩
  · rw [memWrite_cmd hf, memWrite_cmd hf']
    exact hR.execWord hst d
  · rw [memWrite_keyPush hf, memWrite_keyPush hf']
    exact hR.pushKey hst d
  · exact ⟨_, _, memWrite_ctrHi hf d, memWrite_ctrHi hf' d, hR.writeCtrHi d hst⟩
  · exact ⟨_, _, memWrite_ctrLo hf d, memWrite_ctrLo hf' d, hR.writeCtrLo d hst⟩
  · exact ⟨_, _, memWrite_digits hf d, memWrite_digits hf' d, hR.writeDigits d hst⟩

/-- A read keeps the relation, and it returns the same word when the register it reaches, should its
stage be valid or have none, shows the same in both states (R59, R61, R68). -/
theorem PortRel.memRead (a : Offset) :
    R (memRead a s).1 (memRead a t).1 ∧
    ((∀ r, a = regOffset r → (∀ st, regStage r = some st → s.valid st = true) →
        regView r s = regView r t) →
      (memRead a s).2 = (memRead a t).2) := by
  have hfrozen := hR.frozen hst
  obtain ⟨hf, h⟩ | ⟨hf, ha, h⟩ | ⟨hf, r, w, rfl, hw, hstage, h⟩ |
    ⟨hf, r, w, st, rfl, hw, hstage, hval, h⟩ | ⟨hf, r, st, rfl, hstage, hval, h⟩ :=
    memRead_cases a s <;> have hf' : t.frozen = _ := hfrozen ▸ hf <;> rw [h]
  case inl =>
    rw [memRead_frozen hf']
    refine ⟨hst, fun hview => frozenRead_congr fun r ha hany => hview r ha fun st hstage => ?_⟩
    rw [regStage_of_readInAnyState hany] at hstage
    cases hstage
  case inr.inl =>
    rw [memRead_of_badRead hf' ha]
    exact ⟨hR.enterFault _ _ hst, fun _ => rfl⟩
  case inr.inr.inl =>
    obtain ⟨w', hw'⟩ := exists_regView (regAccess_of_regView hw) t
    rw [memRead_of_no_stage hf' hstage hw']
    refine ⟨hst, fun hview => Option.some.inj ?_⟩
    rw [← hw, ← hw', hview r rfl fun st hst => by simp [hstage] at hst]
  case inr.inr.inr.inl =>
    obtain ⟨w', hw'⟩ := exists_regView (regAccess_of_regView hw) t
    rw [memRead_of_valid hf' hstage (hR.valid hst st ▸ hval) hw']
    refine ⟨hst, fun hview => Option.some.inj ?_⟩
    rw [← hw, ← hw', hview r rfl fun st' hst' => by simp_all]
  case inr.inr.inr.inr =>
    rw [memRead_of_not_valid hf' hstage (hR.valid hst st ▸ hval)]
    exact ⟨hR.enterFault _ _ hst, fun _ => rfl⟩

end

/-! ### The port's own fields -/

/-- A write keeps the parameter and the port's own fields. -/
theorem memWrite_port {a : Offset} {d : Word} {s t : State} (h : memWrite a d s = .next t) :
    t.keyMax = s.keyMax ∧ t.pending = s.pending ∧ t.rdata = s.rdata := by
  obtain ⟨-, -, -, rfl⟩ | ⟨-, -, rfl⟩ | ⟨-, -, rfl⟩ | ⟨-, -, hword⟩ | ⟨-, -, hpush⟩ |
    ⟨-, -, rfl⟩ | ⟨-, -, rfl⟩ | ⟨-, -, rfl⟩ := memWrite_cases h
  case inr.inr.inr.inl =>
    obtain ⟨i, -, hexec⟩ | ⟨u, -, rfl⟩ := execWord_cases hword
    · exact exec_port hexec
    · simp
  case inr.inr.inr.inr.inl =>
    obtain ⟨-, rfl⟩ | ⟨-, rfl⟩ := pushKey_cases hpush <;> simp
  all_goals simp [writeCtrHi, writeCtrLo, writeDigits]

/-- A read keeps the parameter and what is pending. -/
theorem memRead_port (a : Offset) (s : State) :
    (memRead a s).1.keyMax = s.keyMax ∧ (memRead a s).1.pending = s.pending := by
  obtain ⟨-, h⟩ | ⟨-, -, h⟩ | ⟨-, r, w, -, -, -, h⟩ | ⟨-, r, w, st, -, -, -, -, h⟩ |
    ⟨-, r, st, -, -, -, h⟩ := memRead_cases a s <;> simp [h]

/-- Settles O24: a write, a read and a reset each answer a next state and keep the parameter. -/
theorem everyStepCompletes : Obligations.EveryStepCompletes := by
  unfold Obligations.EveryStepCompletes
  intro s
  match hq : s.pending with
  | [] => exact ⟨s, by simp only [step, hq], hq, rfl⟩
  | .write a d :: q =>
    obtain ⟨t, ht⟩ := memWrite_total a d (accept q s)
    obtain ⟨hkeyMax, hpending, -⟩ := memWrite_port ht
    exact ⟨t, (step_of_write hq).trans ht, hpending, hkeyMax⟩
  | .read a :: q =>
    obtain ⟨hkeyMax, hpending⟩ := memRead_port a (accept q s)
    exact ⟨_, step_of_read hq, hpending, hkeyMax⟩
  | .reset :: q => exact ⟨_, step_of_reset hq, rfl, rfl⟩

/-! ### The next event alone counts (R48) -/

/-- The second state is the first but for what is pending, which is `q`. -/
def SameButPending (q : List Event) (s t : State) : Prop := t = { s with pending := q }

/-- No operation of the port looks at what is pending. -/
theorem portRel_sameButPending (q : List Event) : PortRel (SameButPending q) where
  keyMax := by rintro s _ rfl; rfl
  klen := by rintro s _ rfl; rfl
  digits := by rintro s _ rfl; rfl
  valid := by rintro s _ rfl (_ | _ | _ | _) <;> rfl
  ecode := by rintro s _ rfl; rfl
  resetFields := by rintro s _ rfl; rfl
  enterFault := by rintro s _ f x rfl; rfl
  keyclr := by rintro s _ rfl; rfl
  hmacResult := by rintro s _ rfl; rfl
  truncResult := by rintro s _ rfl; rfl
  modrResult := by rintro s _ rfl; rfl
  fmtResult := by rintro s _ rfl; rfl
  push := by rintro s _ b rfl; rfl
  writeCtrHi := by rintro s _ d rfl; rfl
  writeCtrLo := by rintro s _ d rfl; rfl
  writeDigits := by rintro s _ d rfl; rfl

/-- Settles O23: the two states that have accepted the event differ in what is pending alone, and every
operation keeps it so. -/
theorem stepDependsOnTheEventAlone : Obligations.StepDependsOnTheEventAlone := by
  unfold Obligations.StepDependsOnTheEventAlone
  intro s e q q' r hq
  have hrel := portRel_sameButPending q'
  have hsame : SameButPending q' (accept q s)
    (accept q' { s with pending := e :: q', rdata := r }) := rfl
  cases e with
  | write a d =>
    obtain ⟨t, _, ht, ht', rfl⟩ := hrel.memWrite hsame a d
    obtain ⟨-, hpending, -⟩ := memWrite_port ht
    exact ⟨t, (step_of_write hq).trans ht, hpending, (step_of_write rfl).trans ht'⟩
  | read a =>
    obtain ⟨hstate, hword⟩ := hrel.memRead hsame a
    obtain ⟨-, hpending⟩ := memRead_port a (accept q s)
    refine ⟨_, step_of_read hq, hpending, (step_of_read rfl).trans ?_⟩
    rw [← hword fun r' _ _ => by cases r' <;> rfl, hstate]
  | reset =>
    exact ⟨_, step_of_reset hq, rfl,
      (step_of_reset rfl).trans (congrArg Host.Outcome.next (hrel.resetFields hsame))⟩

/-! ### The key's bytes (R144) -/

/-- No operation of the port takes a branch on a key byte or on a result (R144). -/
theorem portRel_sameButKeyBytes : PortRel SameButKeyBytes where
  keyMax h := h.keyMax
  klen h := h.klen
  digits h := h.digits
  valid h st := by
    cases st with
    | digest => exact h.dv
    | selected => exact h.sv
    | code => exact h.cv
    | out => exact h.ov
  ecode h := h.ecode
  resetFields h :=
    { h with
      klen := rfl, ctr := rfl, digits := rfl, dv := rfl, sv := rfl, cv := rfl, ov := rfl
      ecode := rfl, einfo := rfl }
  enterFault _ _ h :=
    { h with dv := rfl, sv := rfl, cv := rfl, ov := rfl, ecode := rfl, einfo := rfl }
  keyclr h := { h with klen := rfl, dv := rfl, sv := rfl, cv := rfl, ov := rfl }
  hmacResult h := { h with dv := rfl, sv := rfl, cv := rfl, ov := rfl }
  truncResult h := { h with sv := rfl, cv := rfl, ov := rfl }
  modrResult h := { h with cv := rfl, ov := rfl }
  fmtResult h := { h with ov := rfl }
  push _ h := { h with klen := congrArg (· + 1) h.klen, dv := rfl, sv := rfl, cv := rfl, ov := rfl }
  writeCtrHi d h :=
    { h with
      ctr := congrArg (fun c => d ++ c.extractLsb' 0 32) h.ctr
      dv := rfl, sv := rfl, cv := rfl, ov := rfl }
  writeCtrLo d h :=
    { h with
      ctr := congrArg (fun c => c.extractLsb' 32 32 ++ d) h.ctr
      dv := rfl, sv := rfl, cv := rfl, ov := rfl }
  writeDigits _ h := { h with digits := rfl, cv := rfl, ov := rfl }

/-- A register that is no result shows no key byte. -/
theorem SameButKeyBytes.regView {s t : State} (h : SameButKeyBytes s t) {r : Reg}
    (hr : regStage r = none) : regView r s = regView r t := by
  cases r with
  | cmd | keyPush => rfl
  | status => simp only [Machine.regView, statusWord, State.frozen, h.ecode, h.dv, h.sv, h.cv, h.ov]
  | err => simp only [Machine.regView, h.ecode]
  | einfo => simp only [Machine.regView, h.einfo]
  | klen => simp only [Machine.regView, h.klen]
  | ctrHi | ctrLo => simp only [Machine.regView, h.ctr]
  | digits => simp only [Machine.regView, h.digits]
  | _ => cases hr

/-- Settles O42: every operation keeps the relation; a read that is not of a valid result is refused in
both states or reaches a register that is no result. -/
theorem keyBytesShowOnlyInResults : Obligations.KeyBytesShowOnlyInResults := by
  unfold Obligations.KeyBytesShowOnlyInResults
  intro s t s' t' e q h hq hs ht
  have hq' : t.pending = e :: q := h.pending ▸ hq
  have haccept : SameButKeyBytes (accept q s) (accept q t) := { h with pending := rfl }
  cases e with
  | write a d =>
    rw [step_of_write hq] at hs
    rw [step_of_write hq'] at ht
    obtain ⟨u, v, hu, hv, huv⟩ := portRel_sameButKeyBytes.memWrite haccept a d
    obtain rfl : u = s' := by simpa [hu] using hs
    obtain rfl : v = t' := by simpa [hv] using ht
    obtain ⟨-, -, hur⟩ := memWrite_port hu
    obtain ⟨-, -, hvr⟩ := memWrite_port hv
    exact ⟨huv, fun _ => hur.trans hvr.symm⟩
  | read a =>
    rw [step_of_read hq] at hs
    rw [step_of_read hq'] at ht
    cases hs
    cases ht
    obtain ⟨hstate, hword⟩ := portRel_sameButKeyBytes.memRead haccept a
    refine ⟨{ hstate with }, fun hno => congrArg some (hword fun r ha hvalid => ?_)⟩
    refine haccept.regView (Option.eq_none_iff_forall_ne_some.2 fun st hst => ?_)
    exact hno r st hst (hvalid st hst) (congrArg _ ha)
  | reset =>
    rw [step_of_reset hq] at hs
    rw [step_of_reset hq'] at ht
    cases hs
    cases ht
    exact ⟨portRel_sameButKeyBytes.resetFields haccept, fun _ => rfl⟩

end Sys2Proof.Machine
end

section
/-! The register map (spec R15, R16) and the fields its registers show (R19 to R33). -/

namespace Sys2Proof.Machine

/-! ### Offsets and registers (R15, R16) -/

theorem regOffset_injective {r r' : Reg} (h : regOffset r = regOffset r') : r = r' := by
  have hat := congrArg regAt h
  rw [regAt_regOffset, regAt_regOffset] at hat
  exact Option.some.inj hat

/-- Exactly the aligned offsets below `0x50` name a register (R49, R56). -/
theorem exists_regAt_iff {a : Offset} :
    (∃ r, regAt a = some r) ↔ a.extractLsb' 0 2 = 0#2 ∧ a.toNat < 0x50 := by
  rw [← not_iff_not, not_and_or, Nat.not_lt, ← ne_eq, ← misaligned_eq_true, ← unmapped_eq_true]
  constructor
  · exact fun hno => misaligned_or_unmapped_of_regAt_eq_none
      (Option.eq_none_iff_forall_ne_some.2 fun r hr => hno ⟨r, hr⟩)
  · rintro hbad ⟨r, hr⟩
    obtain rfl := regOffset_of_regAt hr
    simp at hbad

/-- Settles O27: the list is that of the registers with their offsets. -/
theorem registerMapHasNoAliases : Obligations.RegisterMapHasNoAliases := by
  unfold Obligations.RegisterMapHasNoAliases
  refine ⟨fun a r => ?map, fun _ _ => regAt_eq_some, fun _ _ => regOffset_injective,
    fun _ => exists_regAt_iff⟩
  case map =>
    change _ ↔ (a, r) ∈ regList.map fun r => (regOffset r, r)
    simp [mem_regList, regAt_eq_some, @eq_comm _ a]

/-! ### Words of four bytes (R9) -/

/-- Byte `j` of `BE32` (R9). -/
theorem wordByte_be32 (b0 b1 b2 b3 : Byte) (j : Fin 4) :
    wordByte (be32 b0 b1 b2 b3) j = [b0, b1, b2, b3][j] := by
  apply BitVec.eq_of_toNat_eq
  rw [wordByte, BitVec.extractLsb'_toNat, Nat.shiftRight_eq_div_pow, be32_toNat]
  have h0 := b0.isLt
  have h1 := b1.isLt
  have h2 := b2.isLt
  have h3 := b3.isLt
  fin_cases j <;> simp <;> omega

/-- A word is `BE32` of its bytes (R9). -/
theorem be32_wordByte (w : Word) :
    be32 (wordByte w 0) (wordByte w 1) (wordByte w 2) (wordByte w 3) = w := by
  have hw := w.isLt
  apply BitVec.eq_of_toNat_eq
  simp only [be32_toNat, wordByte, BitVec.extractLsb'_toNat, Nat.shiftRight_eq_div_pow]
  omega

/-! ### The digest and the string (R23, R27) -/

theorem regView_digest (s : State) (n : Fin 5) :
    regView ([Reg.digest0, .digest1, .digest2, .digest3, .digest4][n]) s = some (digestWord s n) := by
  fin_cases n <;> rfl

theorem regView_out (s : State) (n : Fin 2) :
    regView ([Reg.out0, .out1][n]) s = some (outWord s n) := by
  fin_cases n <;> rfl

theorem wordByte_digestWord (s : State) (n : Fin 5) (j : Fin 4) :
    wordByte (digestWord s n) j = s.digest[4 * n.val + j.val] := by
  rw [digestWord, wordByte_be32]
  fin_cases j <;> rfl

theorem wordByte_outWord (s : State) (n : Fin 2) (j : Fin 4) :
    wordByte (outWord s n) j = s.out[4 * n.val + j.val] := by
  rw [outWord, wordByte_be32]
  fin_cases j <;> rfl

/-- When the digest is made of the bytes of a chaining value, DIGESTn shows its word `n` (R97). -/
theorem digestWord_of_bytes {s : State} {h : Chain} (hd : s.digest = h.bytes) (n : Fin 5) :
    digestWord s n = h.word n := by
  have hbyte (j : Fin 4) : wordByte (digestWord s n) j = wordByte (h.word n) j := by
    rw [wordByte_digestWord, ← h.bytes_getElem n j]
    simp only [hd]
  rw [← be32_wordByte (digestWord s n), ← be32_wordByte (h.word n)]
  exact congr (congr (congr (congrArg be32 (hbyte 0)) (hbyte 1)) (hbyte 2)) (hbyte 3)

/-- Settles O33: DIGESTn is `BE32` of four bytes, which are those of a word of the hash. -/
theorem digestRegistersShowTheDigest : Obligations.DigestRegistersShowTheDigest := by
  unfold Obligations.DigestRegistersShowTheDigest
  intro s n
  rw [regView_digest]
  refine ⟨fun w hw j => ?byte, fun m hm => ?hash⟩
  case byte => cases hw; exact wordByte_digestWord s n j
  case hash => rw [digestWord_of_bytes (hm.trans (sha1_eq m))]

/-- Settles O34: OUTn is `BE32` of four characters. -/
theorem outRegistersShowTheString : Obligations.OutRegistersShowTheString := by
  unfold Obligations.OutRegistersShowTheString
  intro s n w hw j
  rw [regView_out] at hw
  cases hw
  exact wordByte_outWord s n j

/-! ### The other registers (R16) -/

/-- A field at the bottom of a register. -/
theorem extractLsb'_zero_setWidth {n m : Nat} (h : n ≤ m) (x : BitVec n) :
    (x.setWidth m).extractLsb' 0 n = x := by
  rw [BitVec.extractLsb'_setWidth_of_le (by omega), BitVec.extractLsb'_eq_self]

/-- The reserved bits above such a field. -/
theorem extractLsb'_setWidth_reserved {n m : Nat} (k : Nat) (x : BitVec n) :
    (x.setWidth m).extractLsb' n k = 0#k := by
  ext i hi
  simp

/-- The two halves of the counter are the whole counter (R21). -/
theorem ctr_halves (c : Counter) : c.extractLsb' 32 32 ++ c.extractLsb' 0 32 = c := by
  have happend : c.extractLsb' 32 32 ++ c.extractLsb' 0 32 = c.extractLsb' 0 64 :=
    BitVec.extractLsb'_append_extractLsb'_eq_extractLsb' rfl
  rwa [BitVec.extractLsb'_eq_self] at happend

/-- The key length fits the 16 bits of KLEN (R7, R19). -/
theorem klen_field {k : Nat} (h : k ≤ 65535) :
    ((BitVec.ofNat 32 k).extractLsb' 0 16).toNat = k ∧ (BitVec.ofNat 32 k).extractLsb' 16 16 = 0#16 := by
  constructor
  · rw [BitVec.extractLsb'_toNat, BitVec.toNat_ofNat, Nat.shiftRight_zero]
    omega
  · apply BitVec.eq_of_toNat_eq
    rw [BitVec.extractLsb'_toNat, BitVec.toNat_ofNat, Nat.shiftRight_eq_div_pow, BitVec.toNat_ofNat]
    omega

/-- Settles O35: each field stands at the bottom of its register, with zeros above it. -/
theorem registerFieldsAndReservedBits : Obligations.RegisterFieldsAndReservedBits := by
  unfold Obligations.RegisterFieldsAndReservedBits
  intro s
  refine ⟨?err, ?einfo, ?klen, ?ctr, ?digits, ?offset, ?sel, ?code, ?outLen⟩
  case err | digits | offset | code | outLen =>
    rintro _ ⟨⟩
    exact ⟨extractLsb'_zero_setWidth (by decide) _, extractLsb'_setWidth_reserved ..⟩
  case einfo => rintro _ ⟨⟩; rfl
  case klen => rintro _ ⟨⟩ h; exact klen_field h
  case ctr => rintro _ _ ⟨⟩ ⟨⟩; exact ctr_halves s.ctr
  case sel =>
    rintro _ ⟨⟩
    exact ⟨extractLsb'_zero_setWidth (by decide) _, by simp⟩

end Sys2Proof.Machine
end

section
/-! The command words (spec R76, R77), the step as the next event of the port (R6, R46, R62), and the
records of events (R81). -/

namespace Sys2Proof.Machine

/-! ### Decoding what was encoded (R76, R77) -/

/-- Settles O17: the eight words are the encodings of the eight commands. -/
theorem commandWordsDecode : Obligations.CommandWordsDecode := by
  unfold Obligations.CommandWordsDecode
  exact ⟨decode_encode .nop, decode_encode .clr, decode_encode .keyclr, decode_encode .hmac,
    decode_encode .trunc, decode_encode .modr, decode_encode .fmt, decode_encode .hotp⟩

/-- The opcode table's number of a word is the word's own value (R73). -/
theorem decodeTableWord_toNat (w : Word) : decodeTableWord 32 w.toNat = (decode w).toOption := by
  rw [decodeTableWord, Nat.mod_eq_of_lt w.isLt, if_pos w.isLt, BitVec.ofNat_toNat, BitVec.setWidth_eq]

/-- Settles O18: decoding is the converse of encoding, and the table numbers the word's own bits. -/
theorem decodeAfterEncode : Obligations.DecodeAfterEncode := by
  unfold Obligations.DecodeAfterEncode
  intro i _
  refine ⟨decode_encode i, ?_⟩
  rw [decodeTableWord_toNat, decode_encode]
  rfl

/-! ### The step is the next event (R6, R46, R62) -/

/-- Settles O22: the three cases of a step that is not a reset. -/
theorem stepPerformsTheNextEvent : Obligations.StepPerformsTheNextEvent := by
  unfold Obligations.StepPerformsTheNextEvent
  exact ⟨fun s hq => by simp only [step, hq], fun _ _ _ _ => step_of_write, fun _ _ _ => step_of_read⟩

/-- A command's word runs in the step in which it is written (R30). -/
theorem step_of_command {s : State} {q : List Event} {d : Word} {i : Instr}
    (hq : s.pending = .write 0x00#8 d :: q) (hs : s.ecode = 0#4) (hd : decode d = .ok i) :
    step s = exec i (accept q s) := by
  obtain rfl := eq_encode_of_decode hd
  exact (step_of_write hq).trans (memWrite_encode_of_ecode (s := accept q s) hs i)

/-- Settles O21: the word is written to CMD, and `withFetchWord` presents such a write. -/
theorem stepRunsTheDecodedCommand : Obligations.StepRunsTheDecodedCommand := by
  unfold Obligations.StepRunsTheDecodedCommand
  refine ⟨fun s q d i => step_of_command, fun s w i hw hs hd => ?_⟩
  rw [← Nat.mod_eq_of_lt hw] at hd
  exact step_of_command (s := s.withFetchWord 32 w) rfl hs hd

/-! ### Hex digits (R81) -/

theorem hexValue_hexDigit : ∀ v < 16, hexValue (hexDigit v) = some v := by decide

/-- A hex digit appended to a text is the least significant digit of its number. -/
theorem hexNumber_append_hexDigit {v : Nat} (hv : v < 16) {acc n : Nat} {cs : List Char}
    (h : hexNumber acc cs = some n) : hexNumber acc (cs ++ [hexDigit v]) = some (16 * n + v) := by
  induction cs generalizing acc with
  | nil =>
    cases h
    simp [hexNumber, hexValue_hexDigit v hv]
  | cons c cs ih =>
    simp only [List.cons_append, hexNumber] at h ⊢
    split at h
    · exact ih h
    · cases h

/-- `n` hex digits of a value that has no more read back as the value. -/
theorem hexNumber_hexDigits {n v : Nat} (hv : v < 16 ^ n) : hexNumber 0 (hexDigits n v) = some v := by
  induction n generalizing v with
  | zero =>
    have : v = 0 := by simpa using hv
    simp [hexDigits, hexNumber, this]
  | succ n ih =>
    have hhigh : v / 16 < 16 ^ n := Nat.div_lt_of_lt_mul (by rwa [Nat.pow_succ'] at hv)
    rw [hexDigits, hexNumber_append_hexDigit (Nat.mod_lt _ (by decide)) (ih hhigh), Nat.div_add_mod]

/-! ### Records (R81) -/

theorem parseRecord_read {a1 a0 : Char} {a : Nat} (ha : hexNumber 0 [a1, a0] = some a) :
    parseRecord ['R', ' ', a1, a0] = some (.read (BitVec.ofNat 8 a)) := by
  simp [parseRecord, ha]

theorem parseRecord_write {a1 a0 d7 d6 d5 d4 d3 d2 d1 d0 : Char} {a d : Nat}
    (ha : hexNumber 0 [a1, a0] = some a)
    (hd : hexNumber 0 [d7, d6, d5, d4, d3, d2, d1, d0] = some d) :
    parseRecord ['W', ' ', a1, a0, ' ', d7, d6, d5, d4, d3, d2, d1, d0] =
      some (.write (BitVec.ofNat 8 a) (BitVec.ofNat 32 d)) := by
  simp [parseRecord, ha, hd]

/-- Settles O19: the hex digits of the offset and of the word read back as the two numbers, which fit
their widths. -/
theorem recordReadsBackAsItsEvent : Obligations.RecordReadsBackAsItsEvent := by
  unfold Obligations.RecordReadsBackAsItsEvent
  intro e
  cases e with
  | write a d =>
    have ha := hexNumber_hexDigits (n := 2) a.isLt
    have hd := hexNumber_hexDigits (n := 8) d.isLt
    exact (parseRecord_write ha hd).trans (by simp)
  | read a =>
    have ha := hexNumber_hexDigits (n := 2) a.isLt
    exact (parseRecord_read ha).trans (by simp)
  | reset => rfl

end Sys2Proof.Machine
end

section
/-! Operand writes and their hazards: repeated writes (spec R69), results after an operand write (R157),
and what can change an operand (R18, R21, R22, R145). -/

namespace Sys2Proof.Machine

/-! ### Repeated writes (R69) -/

/-- No fault is CLR's, the one write that is obeyed while frozen (R60). -/
theorem WriteFault.not_clr {a : Offset} {d x : Word} {f : FaultCode} (h : WriteFault a d f x) :
    ¬(a = 0x00#8 ∧ d = 0x00000001#32) := by
  rintro ⟨rfl, rfl⟩
  cases h with
  | bus ha => exact absurd ha.offset (by decide)
  | keyovf ha => exact absurd ha (by decide)
  | illcmd _ hd => obtain ⟨u, hu⟩ := hd; cases hu
  | command _ hd hf => cases hf <;> exact absurd hd (by decide)

/-- A write that faulted is ignored when it is repeated. -/
theorem WriteFault.memWrite_repeat {a : Offset} {d x : Word} {f : FaultCode}
    (h : WriteFault a d f x) (s : State) :
    memWrite a d (enterFault f x s) = .next (enterFault f x s) := by
  rw [memWrite_frozen (enterFault_frozen f x s), if_neg h.not_clr]

/-! Each command computes its stage from what it leaves as it is, so it computes the same again. -/

theorem hmacResult_hmacResult (s : State) : hmacResult (hmacResult s) = hmacResult s := by
  ext1 <;> simp [hmacResult, State.key, State.text]

theorem truncResult_truncResult (s : State) : truncResult (truncResult s) = truncResult s := by
  ext1 <;> simp [truncResult]

theorem modrResult_modrResult (s : State) : modrResult (modrResult s) = modrResult s := by
  ext1 <;> simp [modrResult]

theorem fmtResult_fmtResult (s : State) : fmtResult (fmtResult s) = fmtResult s := by
  ext1 <;> simp [fmtResult]

theorem hotpResult_hotpResult (s : State) : hotpResult (hotpResult s) = hotpResult s := by
  ext1 <;> simp [hotpResult, State.key, State.text]

theorem exec_keyclr_repeat {s t : State} (h : exec .keyclr s = .next t) :
    exec .keyclr t = .next t := by
  rw [exec_keyclr] at h
  cases h
  rw [exec_keyclr]
  refine congrArg Host.Outcome.next ?_
  ext1 <;> simp

/-- A command that does not fault leaves a state in which it does the same again. -/
theorem exec_repeat {i : Instr} {s t : State} (hs : s.ecode = 0#4) (h : exec i s = .next t) :
    (∃ f, CommandFault i f ∧ t = enterFault f (encode i) s) ∨
    (t.ecode = 0#4 ∧ exec i t = .next t) := by
  cases i with
  | nop => cases h; exact .inr ⟨hs, rfl⟩
  | clr => cases h; exact .inr ⟨rfl, rfl⟩
  | keyclr => exact .inr ⟨by cases h; exact hs, exec_keyclr_repeat h⟩
  | hmac =>
    obtain ⟨-, rfl⟩ | ⟨hkey, rfl⟩ := execHmac_cases h
    · exact .inl ⟨_, .hmac_keyempty, rfl⟩
    · exact .inr ⟨hs, (exec_hmac_of_key (s := hmacResult s) hkey).trans
        (congrArg _ (hmacResult_hmacResult s))⟩
  | trunc =>
    obtain ⟨-, rfl⟩ | ⟨hdv, rfl⟩ := execTrunc_cases h
    · exact .inl ⟨_, .trunc_seq, rfl⟩
    · exact .inr ⟨hs, (exec_trunc_of_digest (s := truncResult s) hdv).trans
        (congrArg _ (truncResult_truncResult s))⟩
  | modr =>
    obtain ⟨-, rfl⟩ | ⟨-, -, rfl⟩ | ⟨hsv, hdigits, rfl⟩ := execModr_cases h
    · exact .inl ⟨_, .modr_seq, rfl⟩
    · exact .inl ⟨_, .modr_digits, rfl⟩
    · exact .inr ⟨hs, ((exec_modr_of_selected (s := modrResult s) hsv).trans
        (if_neg (ne_false_of_eq_true hdigits))).trans (congrArg _ (modrResult_modrResult s))⟩
  | fmt =>
    obtain ⟨-, rfl⟩ | ⟨hcv, rfl⟩ := execFmt_cases h
    · exact .inl ⟨_, .fmt_seq, rfl⟩
    · exact .inr ⟨hs, (exec_fmt_of_code (s := fmtResult s) hcv).trans
        (congrArg _ (fmtResult_fmtResult s))⟩
  | hotp =>
    obtain ⟨-, rfl⟩ | ⟨-, -, rfl⟩ | ⟨hkey, hdigits, rfl⟩ := execHotp_cases h
    · exact .inl ⟨_, .hotp_keyempty, rfl⟩
    · exact .inl ⟨_, .hotp_digits, rfl⟩
    · exact .inr ⟨hs, (exec_hotp_of_valid_digits (s := hotpResult s) hkey hdigits).trans
        (congrArg _ (hotpResult_hotpResult s))⟩

/-- The lower half of a counter given as two words (R65). -/
theorem ctr_append_low (hi lo : Word) : (show Counter from hi ++ lo).extractLsb' 0 32 = lo :=
  BitVec.extractLsb'_append_eq_right

/-- The upper half of a counter given as two words (R64). -/
theorem ctr_append_high (hi lo : Word) : (show Counter from hi ++ lo).extractLsb' 32 32 = hi :=
  BitVec.extractLsb'_append_eq_left

theorem writeCtrHi_writeCtrHi (d : Word) (s : State) :
    writeCtrHi d (writeCtrHi d s) = writeCtrHi d s := by
  ext1
  case ctr => exact congrArg (d ++ ·) (ctr_append_low d _)
  all_goals simp [writeCtrHi]

theorem writeCtrLo_writeCtrLo (d : Word) (s : State) :
    writeCtrLo d (writeCtrLo d s) = writeCtrLo d s := by
  ext1
  case ctr => exact congrArg (· ++ d) (ctr_append_high _ d)
  all_goals simp [writeCtrLo]

theorem writeDigits_writeDigits (d : Word) (s : State) :
    writeDigits d (writeDigits d s) = writeDigits d s := rfl

/-- Settles O15: a write that faulted is ignored the second time, and every other one leaves a state in
which it does the same again. -/
theorem repeatedWriteIsIdempotent : Obligations.RepeatedWriteIsIdempotent := by
  unfold Obligations.RepeatedWriteIsIdempotent
  intro s t a d ha h
  obtain ⟨-, rfl, rfl, rfl⟩ | ⟨-, -, rfl⟩ | ⟨-, hbad, rfl⟩ | ⟨hf, rfl, hword⟩ | ⟨-, rfl, -⟩ |
    ⟨hf, rfl, rfl⟩ | ⟨hf, rfl, rfl⟩ | ⟨hf, rfl, rfl⟩ := memWrite_cases h
  · exact memWrite_clr _
  · exact h
  · exact (WriteFault.bus hbad).memWrite_repeat s
  · obtain ⟨i, hi, hexec⟩ | ⟨u, hu, rfl⟩ := execWord_cases hword
    · obtain rfl := eq_encode_of_decode hi
      obtain ⟨f, hfault, rfl⟩ | ⟨ht, hagain⟩ := exec_repeat (frozen_eq_false.1 hf) hexec
      · exact (WriteFault.command rfl rfl hfault).memWrite_repeat s
      · exact (memWrite_encode_of_ecode ht i).trans hagain
    · exact (WriteFault.illcmd rfl ⟨u, hu⟩).memWrite_repeat s
  · exact absurd ha (by decide)
  · rw [memWrite_ctrHi (s := writeCtrHi d s) hf, writeCtrHi_writeCtrHi]
  · rw [memWrite_ctrLo (s := writeCtrLo d s) hf, writeCtrLo_writeCtrLo]
  · rw [memWrite_digits (s := writeDigits d s) hf, writeDigits_writeDigits]

/-! ### Result reads after an operand write (R157) -/

/-- A read of a result register whose stage is not valid faults, or reads 0 when the core is frozen
already (R61, R68). -/
theorem memRead_of_not_valid_any {t : State} {r : Reg} {st : Stage} (hst : regStage r = some st)
    (hval : t.valid st = false) :
    (t.ecode = 0#4 → memRead (regOffset r) t =
        (enterFault .rdinv ((regOffset r).setWidth 32) t, 0x00000000#32)) ∧
      (t.ecode ≠ 0#4 → memRead (regOffset r) t = (t, 0x00000000#32)) := by
  refine ⟨fun ht => memRead_of_not_valid (frozen_eq_false.2 ht) hst hval, fun ht => ?_⟩
  rw [memRead_frozen (frozen_eq_true.2 ht), frozenRead_of_not_readInAnyState]
  rintro ⟨r', hany, hr'⟩
  obtain rfl := regOffset_injective hr'
  rw [regStage_of_readInAnyState hany] at hst
  cases hst

/-- After `invalidate(digest)` no stage is valid (R35). -/
theorem valid_invalidate_digest (s : State) (st : Stage) :
    (invalidate .digest s).valid st = false := by
  cases st <;> rfl

/-- A write to KEY_PUSH leaves no stage valid, whether it faults or not (R63). -/
theorem valid_of_pushKey {d : Word} {s t : State} (h : pushKey d s = .next t) (st : Stage) :
    t.valid st = false := by
  obtain ⟨-, rfl⟩ | ⟨-, rfl⟩ := pushKey_cases h <;> exact valid_invalidate_digest _ st

/-- Settles O36: a write to the key or the counter leaves no stage valid, one to the digit count neither
the code nor the out stage. -/
theorem operandWriteMakesResultsUnreadable : Obligations.OperandWriteMakesResultsUnreadable := by
  unfold Obligations.OperandWriteMakesResultsUnreadable
  intro s t r d hs h
  have hf := frozen_eq_false.2 hs
  obtain ⟨hwrite, hr⟩ | ⟨hwrite, hr⟩ := h
  · have hstage : (regStage r).isSome = true := by
      clear * - hr
      revert r
      decide
    obtain ⟨st, hst⟩ := Option.isSome_iff_exists.1 hstage
    refine memRead_of_not_valid_any hst ?_
    rw [memWrite_keyPush hf, memWrite_ctrHi hf, memWrite_ctrLo hf, exec_keyclr] at hwrite
    obtain hpush | h | h | h := hwrite
    case inl => exact valid_of_pushKey hpush st
    all_goals cases h; exact valid_invalidate_digest _ st
  · rw [memWrite_digits hf] at hwrite
    cases hwrite
    have hstage : regStage r = some .code ∨ regStage r = some .out := by
      clear * - hr
      revert r
      decide
    obtain hst | hst := hstage <;> exact memRead_of_not_valid_any hst rfl

/-! ### What changes an operand (R145) -/

/-- Of the commands KEYCLR alone, besides CLR, changes an operand, and only the key. -/
theorem exec_operands {i : Instr} {s t : State} (hi : i ≠ .clr) (h : exec i s = .next t) :
    t.ctr = s.ctr ∧ t.digits = s.digits ∧ (i ≠ .keyclr → t.keybuf = s.keybuf ∧ t.klen = s.klen) := by
  cases i with
  | nop => cases h; simp
  | clr => exact absurd rfl hi
  | keyclr => cases h; simp
  | hmac => obtain ⟨-, rfl⟩ | ⟨-, rfl⟩ := execHmac_cases h <;> simp
  | trunc => obtain ⟨-, rfl⟩ | ⟨-, rfl⟩ := execTrunc_cases h <;> simp
  | modr =>
    obtain ⟨-, rfl⟩ | ⟨-, -, rfl⟩ | ⟨-, -, rfl⟩ := execModr_cases h <;> simp
  | fmt => obtain ⟨-, rfl⟩ | ⟨-, rfl⟩ := execFmt_cases h <;> simp
  | hotp =>
    obtain ⟨-, rfl⟩ | ⟨-, -, rfl⟩ | ⟨-, -, rfl⟩ := execHotp_cases h <;> simp [hotpResult]

/-- No read changes an operand. -/
theorem memRead_operands (a : Offset) (s : State) :
    (memRead a s).1.ctr = s.ctr ∧ (memRead a s).1.digits = s.digits ∧
      (memRead a s).1.keybuf = s.keybuf ∧ (memRead a s).1.klen = s.klen := by
  obtain ⟨-, h⟩ | ⟨-, -, h⟩ | ⟨-, r, w, -, -, -, h⟩ | ⟨-, r, w, st, -, -, -, -, h⟩ |
    ⟨-, r, st, -, -, -, h⟩ := memRead_cases a s <;> simp [h]

/-- Settles O41: of a write's cases each changes the operand it names; a read changes none. -/
theorem operandsChangeOnlyByHostWrites : Obligations.OperandsChangeOnlyByHostWrites := by
  unfold Obligations.OperandsChangeOnlyByHostWrites
  intro s t e q hq h hreset hclr
  cases e with
  | reset => exact absurd rfl hreset
  | read a =>
    rw [step_of_read hq] at h
    cases h
    obtain ⟨hctr, hdigits, hkeybuf, hklen⟩ := memRead_operands a (accept q s)
    exact ⟨fun _ => hctr, fun _ => hdigits, fun _ _ => ⟨hkeybuf, hklen⟩⟩
  | write a d =>
    rw [step_of_write hq] at h
    obtain ⟨-, rfl, rfl, -⟩ | ⟨-, -, rfl⟩ | ⟨-, -, rfl⟩ | ⟨-, rfl, hword⟩ | ⟨-, rfl, hpush⟩ |
      ⟨-, rfl, rfl⟩ | ⟨-, rfl, rfl⟩ | ⟨-, rfl, rfl⟩ := memWrite_cases h
    · exact absurd rfl hclr
    · simp
    · simp
    · obtain ⟨i, hi, hexec⟩ | ⟨u, -, rfl⟩ := execWord_cases hword
      · obtain rfl := eq_encode_of_decode hi
        obtain ⟨hctr, hdigits, hkey⟩ := exec_operands (by rintro rfl; exact hclr rfl) hexec
        exact ⟨fun _ => hctr, fun _ => hdigits,
          fun _ hkeyclr => hkey (by rintro rfl; exact hkeyclr rfl)⟩
      · simp
    · obtain ⟨-, rfl⟩ | ⟨-, rfl⟩ := pushKey_cases hpush <;>
        exact ⟨by simp, by simp, fun hno _ => absurd rfl (hno d)⟩
    · exact ⟨fun hno => absurd rfl (hno d).1, by simp [writeCtrHi], by simp [writeCtrHi]⟩
    · exact ⟨fun hno => absurd rfl (hno d).2, by simp [writeCtrLo], by simp [writeCtrLo]⟩
    · exact ⟨by simp [writeDigits], fun hno => absurd rfl (hno d), by simp [writeDigits]⟩

end Sys2Proof.Machine
end

section
/-! The hash of a short message behind one block, and HMAC as four compressions (spec 41_hmac_sha1.md):
the message (R89), the rounds in order (R96), the blocks of R103, keys with equal digests (R106). -/

namespace Sys2Proof.Machine

/-! ### The message (R89) -/

/-- The first `n` bytes of the counter are its value without the bytes after them. -/
theorem be8_take_value (c : Counter) {n : Nat} (hn : n ≤ 8) :
    ((be8 c).take n).foldl (fun acc b => 256 * acc + b.toNat) 0 = c.toNat / 2 ^ (64 - 8 * n) := by
  induction n with
  | zero => exact (Nat.div_eq_of_lt c.isLt).symm
  | succ n ih =>
    have hbyte : (be8 c)[n]? = some (c.extractLsb' (56 - 8 * n) 8) := by
      simp [be8, Nat.lt_of_succ_le hn]
    have hexp : 64 - 8 * n = 56 - 8 * n + 8 := by omega
    have hexp' : 64 - 8 * (n + 1) = 56 - 8 * n := by omega
    rw [List.take_add_one, hbyte, List.foldl_append, ih (by omega), hexp, hexp', Nat.pow_add,
      ← Nat.div_div_eq_div_mul]
    simp only [Option.toList_some, List.foldl_cons, List.foldl_nil, BitVec.extractLsb'_toNat,
      Nat.shiftRight_eq_div_pow]
    exact Nat.div_add_mod ..

/-- Settles O45: the bytes are slices of the counter, and its prefixes are its leading bytes. -/
theorem counterTextIsBigEndian : Obligations.CounterTextIsBigEndian := by
  unfold Obligations.CounterTextIsBigEndian
  intro c
  refine ⟨be8_length c, fun i hi => by simp [be8, hi], ?value⟩
  case value => simpa [List.take_of_length_le] using be8_take_value c (n := 8) le_rfl

/-! ### The rounds (R96) -/

/-- Settles O48: the rounds on a list followed by one word. -/
theorem roundsRunInOrder : Obligations.RoundsRunInOrder := by
  unfold Obligations.RoundsRunInOrder
  intro ws w v
  rw [sha1Rounds_append, Nat.zero_add]
  rfl

/-! ### A message of one block and at most 55 bytes (R91, R97) -/

/-- A padded message of two blocks takes two compressions (R97). -/
theorem sha1Chain_of_two_blocks {m b c : List Byte} (hpad : sha1Pad m = b ++ c)
    (hb : b.length = 64) (hc : c.length = 64) :
    sha1Chain m = compress (compress sha1Init b) c := by
  have hblocks : sha1Blocks ((b ++ c).length / 64) (b ++ c) = [b, c] := by
    have hlen : (b ++ c).length / 64 = 2 := by rw [List.length_append, hb, hc]
    rw [hlen, sha1Blocks, sha1Blocks, sha1Blocks, List.take_left' hb, List.drop_left' hb,
      List.take_of_length_le hc.le]
  rw [sha1Chain, hpad, hblocks]
  rfl

/-- The second block of a message that has `z` bytes of zeros in its padding. -/
theorem sha1_of_block_append {b x : List Byte} {z : Nat} (hb : b.length = 64)
    (hx : x.length + z = 55) :
    sha1 (b ++ x) = (compress (compress sha1Init b) (x ++ [0x80#8] ++ List.replicate z 0x00#8 ++
      be8 (BitVec.ofNat 64 (8 * (64 + x.length))))).bytes := by
  have hlen : (b ++ x).length = 64 + x.length := by rw [List.length_append, hb]
  have hz : padZeros (64 + x.length) = z := by unfold padZeros; omega
  have hpad : sha1Pad (b ++ x) = b ++ (x ++ [0x80#8] ++ List.replicate z 0x00#8 ++
      be8 (BitVec.ofNat 64 (8 * (64 + x.length)))) := by
    simp only [sha1Pad, hlen, hz, List.append_assoc]
  rw [sha1_eq, sha1Chain_of_two_blocks hpad hb (by simp; omega)]

/-! ### HMAC as four compressions (R103) -/

theorem hmacSha1_eq (k x : List Byte) :
    hmacSha1 k x = sha1 (padBlock 0x5C#8 k ++ (sha1 (padBlock 0x36#8 k ++ x)).toList) := by
  rw [hmacSha1, hmacInner]

/-- A key of at most 64 bytes is filled with zeros (R100). -/
theorem keyBlock_of_le {k : List Byte} (hk : k.length ≤ 64) :
    keyBlock k = k ++ List.replicate (64 - k.length) 0x00#8 := by
  simp [keyBlock, Nat.not_lt.2 hk]

/-- Settles O51: each of the two hashes is of one pad block and a short message. -/
theorem hmacIsFourCompressions : Obligations.HmacIsFourCompressions := by
  unfold Obligations.HmacIsFourCompressions
  intro k x hk hx
  refine ⟨keyBlock k, keyBlock_of_le hk, keyBlock_length k, (sha1 (padBlock 0x36#8 k ++ x)).toList,
    ?inner, ?outer⟩
  case inner =>
    rw [sha1_of_block_append (z := 47) (padBlock_length ..) (by omega), hx]
    rfl
  case outer =>
    have hinner : (sha1 (padBlock 0x36#8 k ++ x)).toList.length = 20 := Vector.length_toList
    rw [hmacSha1_eq, sha1_of_block_append (z := 35) (padBlock_length ..) (by omega), hinner]
    rfl

/-! ### Keys with equal digests (R106) -/

/-- HMAC depends on the key through its key block alone (R101, R102). -/
theorem hmacSha1_congr {k k' : List Byte} (h : keyBlock k = keyBlock k') (x : List Byte) :
    hmacSha1 k x = hmacSha1 k' x := by
  simp only [hmacSha1_eq, padBlock, h]

/-- A longer key has the key block of its hash (R100). -/
theorem keyBlock_sha1 {k : List Byte} (hk : 64 < k.length) :
    keyBlock (sha1 k).toList = keyBlock k := by
  simp [keyBlock, hk]

/-- Trailing zeros of a short key are part of the zero fill (R100). -/
theorem keyBlock_append_zeros {k : List Byte} {n : Nat} (h : k.length + n ≤ 64) :
    keyBlock (k ++ List.replicate n 0x00#8) = keyBlock k := by
  have hlen : (k ++ List.replicate n 0x00#8).length = k.length + n := by simp
  have hfill : n + (64 - (k.length + n)) = 64 - k.length := by omega
  rw [keyBlock_of_le (hlen.trans_le h), keyBlock_of_le (by omega), hlen, List.append_assoc,
    List.replicate_append_replicate, hfill]

/-- Settles O52: the keys have equal key blocks. -/
theorem equivalentKeysGiveEqualDigests : Obligations.EquivalentKeysGiveEqualDigests := by
  unfold Obligations.EquivalentKeysGiveEqualDigests
  refine ⟨fun k hk => ?full, fun k x hk => hmacSha1_congr (keyBlock_sha1 hk).symm x,
    fun k x n h => hmacSha1_congr (keyBlock_append_zeros h) x⟩
  case full => simp [keyBlock_of_le hk.le, hk]

end Sys2Proof.Machine
end
